-- ==== Sys2Proof/Word.lean ====
section
/-! DEFINITION. The word types of the block: everything it moves is one byte (20_memory.md R43, 00_scope.md R5). -/

namespace Sys2Proof

/-- An input byte, a length register, a buffer slot: 8 bits, unsigned, bit 7 most significant (R5, R8). -/
abbrev Byte := BitVec 8

end Sys2Proof
end

