-- ==== Sys2Proof/Syntax.lean ====
section
/-! DEFINITION. The symbols the block consumes, the words of the opcode table, and the instructions: one constructor per
row of spec/opcode_table.json (30_encoding.md sections 1, 2, 3 and 7). -/

namespace Sys2Proof

/-- A symbol: the 11 bits the block samples at one rising edge (30_encoding.md section 1; the ports of 10_state.md
R21). -/
structure Symbol where
  rst      : Bool
  ctxReset : Bool
  inValid  : Bool
  inByte   : Byte
  deriving DecidableEq, Repr

/-- A word of one of the three groups of the opcode table (30_encoding.md section 7). A CTRL word carries the byte that
is on `in_byte` beside the three lines, a DATA_MODE word the DATA byte it is the second-level decode of. -/
inductive InstrWord where
  /-- Format BYTE (R53): the 8 bits of `in_byte`. -/
  | byte (value : Byte)
  /-- Format CTRL (R54): `{rst, ctx_reset, in_valid}`, `rst` as bit 2, and the byte on `in_byte`. -/
  | ctrl (lines : BitVec 3) (inByte : Byte)
  /-- DATA_MODE (R57): `flags[1:0]`, LengthKnown as bit 1 and Started as bit 0, and the DATA byte. -/
  | dataMode (mode : BitVec 2) (value : Byte)
  deriving DecidableEq, Repr

/-- One constructor per row of spec/opcode_table.json. The rows are three views of one symbol: its lines (`hwreset`,
`reset`, `idle`, `byte`), its byte (`start` to `data9`), and, for a DATA byte, the mode (`stray`, `length`,
`payload`). -/
inductive Instr where
  /-- START, byte 0x02 (40_control_bytes.md R71). -/
  | start
  /-- STOP, byte 0x03 (R73, R74). -/
  | stop
  /-- ESC, byte 0x10 (R72). -/
  | esc
  /-- DATA.0: 0x00, 0x01 (30_encoding.md R55, 41_data_bytes.md R77). -/
  | data0 (b : Byte)
  /-- DATA.1: 0x04..0x07. -/
  | data1 (b : Byte)
  /-- DATA.2: 0x08..0x0F. -/
  | data2 (b : Byte)
  /-- DATA.3: 0x11. -/
  | data3 (b : Byte)
  /-- DATA.4: 0x12, 0x13. -/
  | data4 (b : Byte)
  /-- DATA.5: 0x14..0x17. -/
  | data5 (b : Byte)
  /-- DATA.6: 0x18..0x1F. -/
  | data6 (b : Byte)
  /-- DATA.7: 0x20..0x3F. -/
  | data7 (b : Byte)
  /-- DATA.8: 0x40..0x7F. -/
  | data8 (b : Byte)
  /-- DATA.9: 0x80..0xFF. -/
  | data9 (b : Byte)
  /-- HWRESET: `rst = 1` (42_context_ops.md R83). -/
  | hwreset
  /-- RESET: `rst = 0`, `ctx_reset = 1` (R84). -/
  | reset
  /-- IDLE: `rst = 0`, `ctx_reset = 0`, `in_valid = 0` (R85). -/
  | idle
  /-- BYTE, the CTRL row in which a byte is accepted: `process(ctx, b)` (30_encoding.md R60, R88). -/
  | byte (b : Byte)
  /-- STRAY, a DATA byte with Started clear (R57, R80). -/
  | stray (b : Byte)
  /-- LENGTH, a DATA byte with Started set and LengthKnown clear (R57, R78). -/
  | length (b : Byte)
  /-- PAYLOAD, a DATA byte with Started and LengthKnown set (R57, R79). -/
  | payload (b : Byte)
  deriving DecidableEq, Repr

end Sys2Proof
end

