-- ==== Sys2Proof/WellFormed.lean ====
section
/-! DEFINITION. Which instruction terms the encoding admits, written from the "values" column of 30_encoding.md R55 (the
decoder is written from its match and mask columns; the round trip of Decode.lean compares the two). -/

namespace Sys2Proof

/-- A data byte: any value other than the three control values (R55). -/
def isDataValue (b : Byte) : Bool := b != 0x02 && b != 0x03 && b != 0x10

/-- The value of `b` lies in `lo..hi`. -/
def valueIn (lo hi : Nat) (b : Byte) : Bool := lo ≤ b.toNat && b.toNat ≤ hi

/-- The instruction has an encoding: its byte lies in the values of its row (R55), and the second-level rows carry a
DATA byte (R57). -/
def WellFormed : Instr → Bool
  | .start     => true
  | .stop      => true
  | .esc       => true
  | .data0 b   => valueIn 0x00 0x01 b
  | .data1 b   => valueIn 0x04 0x07 b
  | .data2 b   => valueIn 0x08 0x0F b
  | .data3 b   => valueIn 0x11 0x11 b
  | .data4 b   => valueIn 0x12 0x13 b
  | .data5 b   => valueIn 0x14 0x17 b
  | .data6 b   => valueIn 0x18 0x1F b
  | .data7 b   => valueIn 0x20 0x3F b
  | .data8 b   => valueIn 0x40 0x7F b
  | .data9 b   => valueIn 0x80 0xFF b
  | .hwreset   => true
  | .reset     => true
  | .idle      => true
  | .byte _    => true
  | .stray b   => isDataValue b
  | .length b  => isDataValue b
  | .payload b => isDataValue b

end Sys2Proof
end

