-- ==== Sys2Proof/Decode.lean ====
section
/-! DEFINITION. The decoder and, after it, the encoder: both from the match and mask columns of 30_encoding.md R54, R55
and R57 (spec/opcode_table.json). -/

namespace Sys2Proof

/-- A row's `match` and `mask`: a value `v` is in the pattern iff `(v & mask) == match` (R55). -/
structure Pattern (w : Nat) where
  pattern : BitVec w
  mask    : BitVec w
  deriving DecidableEq, Repr

/-- `v` is in the pattern (R55). -/
def Pattern.covers {w : Nat} (p : Pattern w) (v : BitVec w) : Bool := v &&& p.mask == p.pattern

/-- The value of the pattern whose free bits are those of `v`. -/
def Pattern.fill {w : Nat} (p : Pattern w) (v : BitVec w) : BitVec w := p.pattern ||| (v &&& ~~~p.mask)

/-! The 13 BYTE rows, over `in_byte` (R55). -/

def patStart : Pattern 8 := ⟨0x02, 0xFF⟩
def patStop  : Pattern 8 := ⟨0x03, 0xFF⟩
def patEsc   : Pattern 8 := ⟨0x10, 0xFF⟩
def patData0 : Pattern 8 := ⟨0x00, 0xFE⟩
def patData1 : Pattern 8 := ⟨0x04, 0xFC⟩
def patData2 : Pattern 8 := ⟨0x08, 0xF8⟩
def patData3 : Pattern 8 := ⟨0x11, 0xFF⟩
def patData4 : Pattern 8 := ⟨0x12, 0xFE⟩
def patData5 : Pattern 8 := ⟨0x14, 0xFC⟩
def patData6 : Pattern 8 := ⟨0x18, 0xF8⟩
def patData7 : Pattern 8 := ⟨0x20, 0xE0⟩
def patData8 : Pattern 8 := ⟨0x40, 0xC0⟩
def patData9 : Pattern 8 := ⟨0x80, 0x80⟩

/-- The ten DATA patterns, in the order of R55. -/
def dataPatterns : List (Pattern 8) :=
  [patData0, patData1, patData2, patData3, patData4, patData5, patData6, patData7, patData8, patData9]

/-- The 13 BYTE rows. -/
def bytePatterns : List (Pattern 8) := [patStart, patStop, patEsc] ++ dataPatterns

/-! The 4 CTRL rows, over `{rst, ctx_reset, in_valid}` (R54). -/

def patHwreset : Pattern 3 := ⟨0b100, 0b100⟩
def patReset   : Pattern 3 := ⟨0b010, 0b110⟩
def patIdle    : Pattern 3 := ⟨0b000, 0b111⟩
def patByte    : Pattern 3 := ⟨0b001, 0b111⟩

/-- The 4 CTRL rows. -/
def ctrlPatterns : List (Pattern 3) := [patHwreset, patReset, patIdle, patByte]

/-! The 3 DATA_MODE rows, over `flags[1:0]` (R57). -/

def patStray   : Pattern 2 := ⟨0b00, 0b01⟩
def patLength  : Pattern 2 := ⟨0b01, 0b11⟩
def patPayload : Pattern 2 := ⟨0b11, 0b11⟩

/-- The 3 DATA_MODE rows. -/
def modePatterns : List (Pattern 2) := [patStray, patLength, patPayload]

/-- Why a word stands for no instruction. -/
inductive DecodeError where
  /-- A DATA_MODE word whose byte is a control value: that decode is "applied only to a DATA-class byte"
  (30_encoding.md section 7). -/
  | notDataClass (value : Byte)
  deriving DecidableEq, Repr

/-- The BYTE row of a byte. The rows partition the 256 values (R55), so that a byte in no earlier row is in the last. -/
def decodeByte (b : Byte) : Instr :=
  if patStart.covers b then .start
  else if patStop.covers b then .stop
  else if patEsc.covers b then .esc
  else if patData0.covers b then .data0 b
  else if patData1.covers b then .data1 b
  else if patData2.covers b then .data2 b
  else if patData3.covers b then .data3 b
  else if patData4.covers b then .data4 b
  else if patData5.covers b then .data5 b
  else if patData6.covers b then .data6 b
  else if patData7.covers b then .data7 b
  else if patData8.covers b then .data8 b
  else .data9 b

/-- The CTRL row of the three lines, with the byte beside them (R54): the four rows partition the 8 combinations. -/
def decodeCtrl (lines : BitVec 3) (inByte : Byte) : Instr :=
  if patHwreset.covers lines then .hwreset
  else if patReset.covers lines then .reset
  else if patByte.covers lines then .byte inByte
  else .idle

/-- The DATA_MODE row of `flags[1:0]` for the DATA byte `b` (R57): the three rows partition the 4 combinations. -/
def decodeMode (mode : BitVec 2) (b : Byte) : Instr :=
  if patStray.covers mode then .stray b
  else if patLength.covers mode then .length b
  else .payload b

/-- The decoder: every word of every group is an instruction, but for a DATA_MODE word with a control byte. -/
def decode : InstrWord → Except DecodeError Instr
  | .byte v       => .ok (decodeByte v)
  | .ctrl l v     => .ok (decodeCtrl l v)
  | .dataMode m v => if isDataValue v then .ok (decodeMode m v) else .error (.notDataClass v)

/-- The three lines of a symbol as a CTRL word (R54). -/
def Symbol.lines (x : Symbol) : BitVec 3 :=
  BitVec.ofBool x.rst ++ BitVec.ofBool x.ctxReset ++ BitVec.ofBool x.inValid

/-- A byte symbol is present iff `rst = 0`, `ctx_reset = 0` and `in_valid = 1` (R53). -/
def Symbol.isByte (x : Symbol) : Bool := patByte.covers x.lines

/-- The operation of a clock edge (R60): the symbol's CTRL row, and where a byte is accepted that byte's BYTE row. -/
def decodeSymbol (x : Symbol) : Instr :=
  if x.isByte then decodeByte x.inByte else decodeCtrl x.lines x.inByte

/-- The operation of a clock edge with the second-level decode of a DATA byte (R57) made as well. -/
def decodeInMode (mode : BitVec 2) (x : Symbol) : Instr :=
  if x.isByte && isDataValue x.inByte then decodeMode mode x.inByte else decodeSymbol x

/-- The words of an instruction. A line or mode bit that its row leaves free is 0. -/
def encode : Instr → InstrWord
  | .start     => .byte patStart.pattern
  | .stop      => .byte patStop.pattern
  | .esc       => .byte patEsc.pattern
  | .data0 b   => .byte (patData0.fill b)
  | .data1 b   => .byte (patData1.fill b)
  | .data2 b   => .byte (patData2.fill b)
  | .data3 b   => .byte (patData3.fill b)
  | .data4 b   => .byte (patData4.fill b)
  | .data5 b   => .byte (patData5.fill b)
  | .data6 b   => .byte (patData6.fill b)
  | .data7 b   => .byte (patData7.fill b)
  | .data8 b   => .byte (patData8.fill b)
  | .data9 b   => .byte (patData9.fill b)
  | .hwreset   => .ctrl patHwreset.pattern 0x00
  | .reset     => .ctrl patReset.pattern 0x00
  | .idle      => .ctrl patIdle.pattern 0x00
  | .byte b    => .ctrl patByte.pattern b
  | .stray b   => .dataMode patStray.pattern b
  | .length b  => .dataMode patLength.pattern b
  | .payload b => .dataMode patPayload.pattern b

/-- The word with every bit its row leaves free, and a byte that is not accepted, set to 0: the free lines of HWRESET
and RESET ("any", R54), `in_byte` where no byte is accepted (R59), LengthKnown of STRAY ("any", R57). -/
def InstrWord.canonical : InstrWord → InstrWord
  | .byte v       => .byte v
  | .ctrl l v     =>
    if patHwreset.covers l then .ctrl patHwreset.pattern 0x00
    else if patReset.covers l then .ctrl patReset.pattern 0x00
    else if patByte.covers l then .ctrl l v
    else .ctrl l 0x00
  | .dataMode m v => if patStray.covers m then .dataMode patStray.pattern v else .dataMode m v

/-- The symbol that presents a byte, and nothing else, at an edge (30_encoding.md R65). -/
def Symbol.ofByte (b : Byte) : Symbol := ⟨false, false, true, b⟩

/-- The symbol of an edge at which nothing is presented (R65: IDLE). -/
def Symbol.nothing : Symbol := ⟨false, false, false, 0x00⟩

/-- The symbol that presents a word at an edge. For a DATA_MODE word it is that of the DATA byte. -/
def InstrWord.symbol : InstrWord → Symbol
  | .byte v       => Symbol.ofByte v
  | .ctrl l v     => ⟨l.getLsbD 2, l.getLsbD 1, l.getLsbD 0, v⟩
  | .dataMode _ v => Symbol.ofByte v

/-- The word that the number `w` of `nbits` bits is in spec/opcode_table.json: 8 bits a BYTE word, 3 bits a CTRL word,
2 bits a DATA_MODE word, the byte beside the last two 0x00 (DESIGN CHOICE, entry 6: a number alone does not name its
group). -/
def tableWord (nbits w : Nat) : Option InstrWord :=
  match nbits with
  | 8 => some (.byte (BitVec.ofNat 8 w))
  | 3 => some (.ctrl (BitVec.ofNat 3 w) 0x00)
  | 2 => some (.dataMode (BitVec.ofNat 2 w) 0x00)
  | _ => none

/-- The instruction the decoder reads from a word of spec/opcode_table.json. -/
def decodeTableWord (nbits w : Nat) : Option Instr :=
  (tableWord nbits w).bind fun x => (decode x).toOption

end Sys2Proof
end

