-- ==== Sys2Proof/Config.lean ====
section
/-! DEFINITION. What is fixed when the block is built: the parameters `C` and `TERM` of
`ucomms_frame_parser(C, TERM)` (00_scope.md R1, R3, R4, R5). The spec leaves no run-time value open (R6), so there is no
free value here. -/

namespace Sys2Proof

/-- The build-time parameters. `C` is held as `LMAX = C − 2`, the constant every bound of the spec is written with
(42_context_ops.md R90: "a build-time constant in 0..255"). So the legal range `2 ≤ C ≤ 257` of R3 is exactly what the
type holds, and no illegal capacity can be written down. -/
structure Params where
  /-- `LMAX = C − 2`, the largest declarable length (R5). -/
  lmax : Byte
  /-- `TERM`, the byte a successful STOP writes (R4). -/
  term : Byte
  deriving DecidableEq, Repr

/-- `C`, the number of byte slots of the frame buffer (R3). -/
def Params.capacity (p : Params) : Nat := p.lmax.toNat + 2

/-- The parameters with capacity `c` (meaningful for the legal values 2..257 of R3) and terminator `t`. -/
def Params.ofCapacity (c : Nat) (t : Byte) : Params := ⟨BitVec.ofNat 8 (c - 2), t⟩

/-- The defaults of R3 and R4: `C = 64`, `TERM = 0x00`. -/
def Params.default : Params := Params.ofCapacity 64 0x00

/-- `ceil(log2 n)`. -/
def ceilLog2 (n : Nat) : Nat := if n ≤ 1 then 0 else Nat.log2 (n - 1) + 1

/-- `AW = max(1, ceil(log2(C)))`, the width of the read port's index (R5). -/
def Params.addrWidth (p : Params) : Nat := max 1 (ceilLog2 p.capacity)

end Sys2Proof
end

