-- ==== Sys2Proof/Machine/State.lean ====
section
/-! DEFINITION. The state of the block as plain data (10_state.md R13 to R18), its reset values (R23), and the reasons a
step can stop. -/

namespace Sys2Proof.Machine

/-- The frame buffer as pairs of a slot's index and its byte, indices rising, no slot that holds 0x00 listed
(20_memory.md R37). -/
abbrev Memory := List Host.Cell

/-- What a slot that is not listed holds: the reset contents of every slot (10_state.md R23). -/
def unlistedByte : Byte := 0x00

/-- The canonical form of a buffer: indices strictly rising, and no entry equal to what an unlisted slot holds. -/
abbrev Memory.wf (m : Memory) : Prop :=
  m.Pairwise (fun x y => x.1 < y.1) ∧ ∀ c ∈ m, c.2 ≠ unlistedByte

/-- Every listed slot lies in `0..C−1` (20_memory.md R37). -/
abbrev Memory.inRange (capacity : Nat) (m : Memory) : Prop := ∀ c ∈ m, c.1 < capacity

/-- The error kinds of UCOMMS §7 (60_exceptions.md R93). `invalidContext` is in the taxonomy and is never raised by the
block (R94). -/
inductive ErrKind where
  | invalidContext
  | missingStart
  | lengthMismatch
  | bufferOverflow
  | notReady
  deriving DecidableEq, Repr

/-- The outcome of a step, the contents of `EV` (10_state.md R18). The unused values of the 4-bit register do not exist in
the type (93_implementation_defined.md U10). -/
inductive Event where
  | none
  | done
  | err (kind : ErrKind)
  deriving DecidableEq, Repr

/-- The Frame Context: "exactly four fields" (10_state.md R13). -/
structure Context where
  /-- bit 0 Started, bit 1 LengthKnown, bit 2 Stopped (R14). -/
  flags             : BitVec 3
  /-- `declared_length` (R15). -/
  declaredLength    : Byte
  /-- `accumulated_length` (R16). -/
  accumulatedLength : Byte
  /-- `buffer[0..C−1]` (R17). -/
  buffer            : Memory
  deriving DecidableEq, Repr

/-- The default context: flags 0b000, both lengths 0, every buffer byte 0x00 (00_scope.md section 7, R23). -/
def Context.default : Context := ⟨0b000, 0, 0, []⟩

/-- The state: "one Frame Context plus the event register EV" (R13), the build-time parameters, and the symbols the Byte
Source will present. The last two are the model's own fields (entries 1 and 3): no step writes `params`, and a step only
takes the first symbol off `input`. -/
structure State where
  ctx    : Context
  /-- `EV`, the outcome of the most recent step (R18). -/
  ev     : Event
  /-- `C` and `TERM`, fixed when the block is built (00_scope.md R3, R4). -/
  params : Params
  /-- The symbols of the coming clock edges, the next one first (00_scope.md R9: "the byte stream (an input)"). -/
  input  : List Symbol
  deriving DecidableEq, Repr

/-- Why the machine stops. -/
inductive Fault where
  /-- A buffer write at an index outside `0..C−1`, which does not exist (20_memory.md R37). Raised by `memWrite` alone.
  R44 says that the write accesses produce no such index, and `Laws/Ops.lean` proves that no instruction ever does.
  Safe. -/
  | bufferIndexOutOfRange (index : Nat)
  deriving DecidableEq, Repr

/-- Why an instruction has no meaning. -/
inductive Refusal where
  /-- An arm of `exec` without its meaning yet. No arm raises it in this model. Safe. -/
  | notModelled (mnemonic : String)
  deriving DecidableEq, Repr

/-- What a meaning answers. -/
abbrev Result := Host.Outcome State Fault Refusal

/-- The state after a hardware reset of the block built with parameters `p` (R23): the default context, no event. -/
def State.resetWith (p : Params) : State := ⟨Context.default, .none, p, []⟩

/-- The state after reset, at the default parameters of R3 and R4 (entry 2), with no symbol waiting. -/
def State.reset : State := State.resetWith Params.default

/-! One setter per register. -/

def State.setFlags (f : BitVec 3) (s : State) : State := { s with ctx := { s.ctx with flags := f } }
def State.setDeclared (d : Byte) (s : State) : State := { s with ctx := { s.ctx with declaredLength := d } }
def State.setAccumulated (a : Byte) (s : State) : State := { s with ctx := { s.ctx with accumulatedLength := a } }
def State.setBuffer (m : Memory) (s : State) : State := { s with ctx := { s.ctx with buffer := m } }
def State.setCtx (c : Context) (s : State) : State := { s with ctx := c }
def State.setEv (e : Event) (s : State) : State := { s with ev := e }
def State.setInput (l : List Symbol) (s : State) : State := { s with input := l }

end Sys2Proof.Machine
end

