-- ==== Sys2Proof/Machine/Flags.lean ====
section
/-! DEFINITION. The flag bits (10_state.md R14), what sets them, and the protocol states they denote (R19). -/

namespace Sys2Proof.Machine

/-- `Started = flags[0]` (R14). -/
def started (f : BitVec 3) : Bool := f.getLsbD 0

/-- `LengthKnown = flags[1]` (R14). -/
def lengthKnown (f : BitVec 3) : Bool := f.getLsbD 1

/-- `Stopped = flags[2]` (R14). -/
def stopped (f : BitVec 3) : Bool := f.getLsbD 2

/-- `flags[1:0]`, the bits the second-level decode reads (30_encoding.md R57). -/
def modeBits (f : BitVec 3) : BitVec 2 := f.extractLsb' 0 2

/-- `flags` of the default context (R23). -/
def noFlags : BitVec 3 := 0b000

/-- `flags` after START: Started alone (40_control_bytes.md R71). -/
def startedOnly : BitVec 3 := 0b001

/-- `flags | 0b010` (41_data_bytes.md R78). -/
def setLengthKnown (f : BitVec 3) : BitVec 3 := f ||| 0b010

/-- `flags | 0b100` (40_control_bytes.md R73). -/
def setStopped (f : BitVec 3) : BitVec 3 := f ||| 0b100

/-- The protocol states of R19. -/
inductive ProtocolState where
  | idle
  | awaitingLength
  | accumulatingPayload
  | frameComplete
  deriving DecidableEq, Repr

/-- The flag set is that of the protocol state, by the definitions quoted in R19. The four reachable values of `flags`
are in one state each. 0b010 is in none, and 0b101 in two, as the table of R19 says. -/
def inState (p : ProtocolState) (f : BitVec 3) : Bool :=
  match p with
  | .idle                => f == noFlags
  | .awaitingLength      => started f && !lengthKnown f
  | .accumulatingPayload => started f && lengthKnown f && !stopped f
  | .frameComplete       => stopped f

end Sys2Proof.Machine
end

