-- ==== Sys2Proof/Machine/Operands.lean ====
section
/-! DEFINITION. The operands of a byte (30_encoding.md R58), the one addressing form, and the comparisons of
42_context_ops.md R90, all unsigned on 8 bits. -/

namespace Sys2Proof.Machine

/-- The LENGTH operand: the byte as an unsigned 8-bit integer, neither scaled nor biased (R58). -/
def lengthOperand (b : Byte) : Byte := b

/-- The PAYLOAD operand: the byte itself (R58). -/
def payloadOperand (b : Byte) : Byte := b

/-- The index of the buffer slot that PAYLOAD and STOP write: the pre-edge `accumulated_length` (20_memory.md R38,
R39). -/
def storeIndex (s : State) : Nat := s.ctx.accumulatedLength.toNat

/-- `v > C − 2` (LENGTH and STOP, R90). -/
def aboveLmax (p : Params) (v : Byte) : Bool := p.lmax < v

/-- `accumulated_length < C − 2` (PAYLOAD, R90). -/
def roomInBuffer (s : State) : Bool := s.ctx.accumulatedLength < s.params.lmax

/-- `accumulated_length < declared_length` (PAYLOAD, R79, R90). -/
def roomInFrame (s : State) : Bool := s.ctx.accumulatedLength < s.ctx.declaredLength

/-- `accumulated_length == declared_length` (STOP, R90). -/
def frameFull (s : State) : Bool := s.ctx.accumulatedLength == s.ctx.declaredLength

end Sys2Proof.Machine
end

