-- ==== Sys2Proof/Machine/Ops.lean ====
section
/-! DEFINITION. The named operations of 00_scope.md R8 over the buffer and the registers, the delivery of an error and of
completion through `EV`, and the taking of the next symbol. -/

namespace Sys2Proof.Machine

/-! The buffer as a list in canonical form. -/

/-- The byte at a slot: what the list holds for it, else what an unlisted slot holds. -/
def bufRead : Memory → Nat → Byte
  | [], _ => unlistedByte
  | (k, x) :: t, i => if k = i then x else bufRead t i

/-- The buffer with one slot written, in canonical form again. -/
def bufWrite : Memory → Nat → Byte → Memory
  | [], i, v => if v = unlistedByte then [] else [(i, v)]
  | (k, x) :: t, i, v =>
    if i < k then (if v = unlistedByte then (k, x) :: t else (i, v) :: (k, x) :: t)
    else if i = k then (if v = unlistedByte then t else (i, v) :: t)
    else (k, x) :: bufWrite t i v

/-- `MemRead(i, 1)`: the byte at buffer index `i` (R8). -/
def memRead (i : Nat) (s : State) : Byte := bufRead s.ctx.buffer i

/-- `MemWrite(i, 1, v)`: `buffer[i] <- v` (R8, 20_memory.md R38, R39). A slot outside `0..C−1` does not exist (R37). -/
def memWrite (i : Nat) (v : Byte) (s : State) : Result :=
  if i < s.params.capacity then .next (s.setBuffer (bufWrite s.ctx.buffer i v))
  else .fault (.bufferIndexOutOfRange i)

/-- `MemClear()`: every slot 0x00, at the one edge (R8, 20_memory.md R40). -/
def memClear (s : State) : State := s.setBuffer []

/-- Go on with the next state. -/
def andThen (r : Result) (f : State → Result) : Result :=
  match r with
  | .next s    => f s
  | .fault e   => .fault e
  | .refused e => .refused e

/-- `reset_ctx()` (42_context_ops.md R84). -/
def resetCtx (s : State) : State :=
  memClear (((s.setFlags noFlags).setDeclared 0).setAccumulated 0)

/-! How a step ends. -/

/-- `raise Err(kind)`, the entry of every error (60_exceptions.md R100): no context register and no buffer byte is
written, and `EV <- Err(kind)`. Nothing is saved, masked or vectored, and so there is no return from an error: the next
byte is processed by the same rules from the unchanged context (R103). -/
def raiseErr (k : ErrKind) (s : State) : Result := .next (s.setEv (.err k))

/-- `emit Done`: `EV <- Done` (R8, 60_exceptions.md R106). -/
def emitDone (s : State) : Result := .next (s.setEv .done)

/-- The end of a step that neither raises nor emits: `EV <- None` (R8). -/
def emitNone (s : State) : Result := .next (s.setEv .none)

/-! The next symbol. -/

/-- The symbol sampled at the coming edge: the first that waits, and IDLE where none does (DESIGN CHOICE, entry 4). -/
def fetch (s : State) : Symbol := s.input.headD Symbol.nothing

/-- The sampled symbol is taken off the list. -/
def advance (s : State) : State := s.setInput s.input.tail

/-- The state with the symbol of a word presented at the coming edge, before what waits. A DATA_MODE word names the mode
as well, so it also sets `flags[1:0]` (DESIGN CHOICE, entry 7). -/
def present (x : InstrWord) (s : State) : State :=
  let t := s.setInput (x.symbol :: s.input)
  match x with
  | .byte _       => t
  | .ctrl _ _     => t
  | .dataMode m _ => t.setFlags (BitVec.setWidth 3 m ||| (s.ctx.flags &&& 0b100))

end Sys2Proof.Machine
end

