-- ==== Sys2Proof/Machine/ControlBytes.lean ====
section
/-! DEFINITION. The control bytes START, ESC and STOP (40_control_bytes.md). -/

namespace Sys2Proof.Machine

/-- START (R71): reset the context, then set Started. -/
def execStart (s : State) : Result := emitNone ((resetCtx s).setFlags startedOnly)

/-- ESC (R72): reset the context, without `Done`. -/
def execEsc (s : State) : Result := emitNone (resetCtx s)

/-- STOP (R73), the checks in the order written there. A STOP in FrameComplete is no case of its own (R74). -/
def execStop (s : State) : Result :=
  if started s.ctx.flags = false then raiseErr .missingStart s
  else if lengthKnown s.ctx.flags = false then raiseErr .notReady s
  else if frameFull s = false then raiseErr .lengthMismatch s
  else if aboveLmax s.params s.ctx.accumulatedLength then raiseErr .bufferOverflow s
  else andThen (memWrite (storeIndex s) s.params.term (s.setFlags (setStopped s.ctx.flags))) emitDone

end Sys2Proof.Machine
end

