-- ==== Sys2Proof/Machine/DataBytes.lean ====
section
/-! DEFINITION. The data bytes: STRAY, LENGTH, PAYLOAD and the dispatch between them (41_data_bytes.md). The three
meanings are the rules' pseudocode, without the selecting condition, which `dataDispatch` tests (entry 7). -/

namespace Sys2Proof.Machine

/-- STRAY (R80): the byte is ignored, and every value raises the same error. -/
def execStray (_b : Byte) (s : State) : Result := raiseErr .missingStart s

/-- LENGTH (R78). -/
def execLength (b : Byte) (s : State) : Result :=
  if aboveLmax s.params (lengthOperand b) then raiseErr .bufferOverflow s
  else emitNone ((s.setDeclared (lengthOperand b)).setFlags (setLengthKnown s.ctx.flags))

/-- PAYLOAD (R79), with the second check that 90_conflicts.md C2 adds. -/
def execPayload (b : Byte) (s : State) : Result :=
  if roomInBuffer s = false then raiseErr .bufferOverflow s
  else if roomInFrame s = false then raiseErr .bufferOverflow s
  else
    andThen (memWrite (storeIndex s) (payloadOperand b) s) fun t =>
      emitNone (t.setAccumulated (s.ctx.accumulatedLength + 1))

/-- DATA(b) (R77): selected by Started, then by LengthKnown. -/
def dataDispatch (b : Byte) (s : State) : Result :=
  if started s.ctx.flags = false then execStray b s
  else if lengthKnown s.ctx.flags = false then execLength b s
  else execPayload b s

/-! The ten DATA rows (R55) differ in their values alone. -/

def execData0 (b : Byte) (s : State) : Result := dataDispatch b s
def execData1 (b : Byte) (s : State) : Result := dataDispatch b s
def execData2 (b : Byte) (s : State) : Result := dataDispatch b s
def execData3 (b : Byte) (s : State) : Result := dataDispatch b s
def execData4 (b : Byte) (s : State) : Result := dataDispatch b s
def execData5 (b : Byte) (s : State) : Result := dataDispatch b s
def execData6 (b : Byte) (s : State) : Result := dataDispatch b s
def execData7 (b : Byte) (s : State) : Result := dataDispatch b s
def execData8 (b : Byte) (s : State) : Result := dataDispatch b s
def execData9 (b : Byte) (s : State) : Result := dataDispatch b s

end Sys2Proof.Machine
end

