-- ==== Sys2Proof/Machine/ContextOps.lean ====
section
/-! DEFINITION. The control symbols HWRESET, RESET, IDLE and BYTE, and the comparisons EQUALS and EQUALS_LOGICAL
(42_context_ops.md). -/

namespace Sys2Proof.Machine

/-- HWRESET (R83). -/
def execHwreset (s : State) : Result := emitNone (resetCtx s)

/-- RESET (R84). -/
def execReset (s : State) : Result := emitNone (resetCtx s)

/-- IDLE (R85): a pending event ends, and nothing else happens. -/
def execIdle (s : State) : Result := emitNone s

/-- BYTE: an accepted byte is given to `process` (30_encoding.md R60), which dispatches it by value first (R88, R56). -/
def execByte (b : Byte) (s : State) : Result :=
  if b = 0x02 then execStart s
  else if b = 0x10 then execEsc s
  else if b = 0x03 then execStop s
  else dataDispatch b s

/-- EQUALS (R86): field-by-field equality, and equality of all `C` buffer bytes. It has no encoding. -/
def equals (p : Params) (x y : Context) : Bool :=
  x.flags == y.flags
  && x.declaredLength == y.declaredLength
  && x.accumulatedLength == y.accumulatedLength
  && (List.range p.capacity).all fun i => bufRead x.buffer i == bufRead y.buffer i

/-- EQUALS_LOGICAL (R87): only `buffer[0..accumulated_length)` is compared. It has no encoding. -/
def equalsLogical (x y : Context) : Bool :=
  x.flags == y.flags
  && x.declaredLength == y.declaredLength
  && x.accumulatedLength == y.accumulatedLength
  && (List.range x.accumulatedLength.toNat).all fun i => bufRead x.buffer i == bufRead y.buffer i

end Sys2Proof.Machine
end

