-- ==== Sys2Proof/Machine/Dispatch.lean ====
section
/-! DEFINITION. One arm per constructor of Instr: the meaning of every row of spec/opcode_table.json. -/

namespace Sys2Proof.Machine

def exec (i : Instr) (s : State) : Host.Outcome State Fault Refusal :=
  match i with
  -- BYTE rows
  | .start => Sys2Proof.Machine.execStart s
  | .stop => Sys2Proof.Machine.execStop s
  | .esc => Sys2Proof.Machine.execEsc s
  | .data0 b => Sys2Proof.Machine.execData0 b s
  | .data1 b => Sys2Proof.Machine.execData1 b s
  | .data2 b => Sys2Proof.Machine.execData2 b s
  | .data3 b => Sys2Proof.Machine.execData3 b s
  | .data4 b => Sys2Proof.Machine.execData4 b s
  | .data5 b => Sys2Proof.Machine.execData5 b s
  | .data6 b => Sys2Proof.Machine.execData6 b s
  | .data7 b => Sys2Proof.Machine.execData7 b s
  | .data8 b => Sys2Proof.Machine.execData8 b s
  | .data9 b => Sys2Proof.Machine.execData9 b s
  -- CTRL rows
  | .hwreset => Sys2Proof.Machine.execHwreset s
  | .reset => Sys2Proof.Machine.execReset s
  | .idle => Sys2Proof.Machine.execIdle s
  | .byte b => Sys2Proof.Machine.execByte b s
  -- DATA_MODE rows
  | .stray b => Sys2Proof.Machine.execStray b s
  | .length b => Sys2Proof.Machine.execLength b s
  | .payload b => Sys2Proof.Machine.execPayload b s

end Sys2Proof.Machine
end

