-- ==== Sys2Proof/Machine/Step.lean ====
section
/-! DEFINITION. One rising clock edge (30_encoding.md R60): the symbol that is presented is sampled, decoded and run. -/

namespace Sys2Proof.Machine

/-- One step: exactly one operation per edge, that of the sampled symbol (R60). -/
def step (s : State) : Host.Outcome State Fault Refusal := exec (decodeSymbol (fetch s)) (advance s)

/-- The state in which the coming edge samples the instruction of a word of spec/opcode_table.json (entries 5, 6, 7). -/
def State.withFetchWord (s : State) (nbits w : Nat) : State :=
  match tableWord nbits w with
  | some x => present x s
  | none   => s

end Sys2Proof.Machine
end

