-- ==== Sys2Proof/Machine/Ports.lean ====
section
/-! DEFINITION. The output ports: wires from registers (10_state.md R21, R22), the 4-bit value of `EV` (R18), the error
codes (60_exceptions.md R93) and the read port (20_memory.md R41). -/

namespace Sys2Proof.Machine

/-- The numeric code of an error kind (60_exceptions.md R93). -/
def ErrKind.code : ErrKind → BitVec 3
  | .invalidContext => 1
  | .missingStart   => 2
  | .lengthMismatch => 3
  | .bufferOverflow => 4
  | .notReady       => 5

/-- The field `done`, `EV[3]` (10_state.md R18). -/
def Event.doneBit : Event → Bool
  | .done  => true
  | .none  => false
  | .err _ => false

/-- The field `err_code`, `EV[2:0]` (R18). -/
def Event.errCode : Event → BitVec 3
  | .none  => 0
  | .done  => 0
  | .err k => k.code

/-- The 4 bits of `EV`: `{done, err_code}` (R18). -/
def Event.bits (e : Event) : BitVec 4 := BitVec.ofBool e.doneBit ++ e.errCode

/-- The category a caller may form (60_exceptions.md R99: "for example codes 2, 3, 5"). It is no port of the block. -/
def ErrKind.isProtocolViolation : ErrKind → Bool
  | .missingStart   => true
  | .lengthMismatch => true
  | .notReady       => true
  | .bufferOverflow => false
  | .invalidContext => false

/-- The read port: `buffer[rd_addr]`, and 0x00 above `C − 1` (20_memory.md R41). `rd_addr` is `AW` bits wide (R5). -/
def rdData (s : State) (rdAddr : BitVec s.params.addrWidth) : Byte :=
  if rdAddr.toNat < s.params.capacity then memRead rdAddr.toNat s else 0x00

/-- The output ports of R21 but for `rd_data`, which also depends on the input `rd_addr`. -/
structure Ports where
  inReady           : Bool
  flags             : BitVec 3
  declaredLength    : Byte
  accumulatedLength : Byte
  frameDone         : Bool
  errValid          : Bool
  errCode           : BitVec 3
  deriving DecidableEq, Repr

/-- What the ports show in the cycle after an edge (R22). -/
def ports (s : State) : Ports where
  inReady           := true
  flags             := s.ctx.flags
  declaredLength    := s.ctx.declaredLength
  accumulatedLength := s.ctx.accumulatedLength
  frameDone         := s.ev.doneBit
  errValid          := s.ev.errCode != 0
  errCode           := s.ev.errCode

end Sys2Proof.Machine
end

