-- ==== Sys2Proof/Machine/Process.lean ====
section
/-! DEFINITION. The block at its second level: the pure function `process(ctx, b) -> (ctx', ev)` (00_scope.md R7), written
from the TABLE of 42_context_ops.md R88, not from the pseudocode the meanings follow. The two are to agree (R60). -/

namespace Sys2Proof.Machine

/-- The table of R88, its rows from top to bottom: `S`, `K` are Started and LengthKnown, `a`, `d` the two lengths. -/
def process (p : Params) (ctx : Context) (b : Byte) : Context × Event :=
  let S := started ctx.flags
  let K := lengthKnown ctx.flags
  let a := ctx.accumulatedLength
  let d := ctx.declaredLength
  if b = 0x02 then (⟨0b001, 0, 0, []⟩, .none)
  else if b = 0x10 then (⟨0b000, 0, 0, []⟩, .none)
  else if b = 0x03 then
    match S, K with
    | false, _    => (ctx, .err .missingStart)
    | true, false => (ctx, .err .notReady)
    | true, true  =>
      if a ≠ d then (ctx, .err .lengthMismatch)
      else if p.lmax < a then (ctx, .err .bufferOverflow)
      else (⟨ctx.flags ||| 0b100, d, a, bufWrite ctx.buffer a.toNat p.term⟩, .done)
  else
    match S, K with
    | false, _    => (ctx, .err .missingStart)
    | true, false =>
      if p.lmax < b then (ctx, .err .bufferOverflow)
      else (⟨ctx.flags ||| 0b010, b, a, ctx.buffer⟩, .none)
    | true, true  =>
      if p.lmax ≤ a ∨ d ≤ a then (ctx, .err .bufferOverflow)
      else (⟨ctx.flags, d, a + 1, bufWrite ctx.buffer a.toNat b⟩, .none)

/-- `process` applied to the bytes in order, the events dropped (20_memory.md R47). -/
def processAll (p : Params) (ctx : Context) (bytes : List Byte) : Context :=
  bytes.foldl (fun c b => (process p c b).1) ctx

end Sys2Proof.Machine
end

