-- ==== Sys2Proof/Safety.lean ====
section
/-! DEFINITION. What must hold after every step (10_state.md section 6), runs and what they produce (70_reset_and_hazards.md
R130), and the frames of the wire format (30_encoding.md R61, R62): the terms the statements use. -/

namespace Sys2Proof.Safety

open Sys2Proof.Machine

/-! The invariants. -/

/-- INV-LEN (10_state.md R24). -/
def InvLen (s : State) : Prop :=
  lengthKnown s.ctx.flags = true → s.ctx.accumulatedLength ≤ s.ctx.declaredLength

/-- INV-CAP (R25). -/
def InvCap (s : State) : Prop :=
  s.ctx.declaredLength ≤ s.params.lmax ∧ s.ctx.accumulatedLength ≤ s.params.lmax

/-- INV-FLAGS, its consequence for `flags` (R26). -/
def InvFlags (s : State) : Prop :=
  s.ctx.flags = 0b000 ∨ s.ctx.flags = 0b001 ∨ s.ctx.flags = 0b011 ∨ s.ctx.flags = 0b111

/-- INV-STOP, what it says of one state (R27). -/
def InvStop (s : State) : Prop :=
  stopped s.ctx.flags = true →
    s.ctx.accumulatedLength = s.ctx.declaredLength ∧ memRead s.ctx.accumulatedLength.toNat s = s.params.term

/-- INV-FRESH (R28). -/
def InvFresh (s : State) : Prop :=
  lengthKnown s.ctx.flags = false →
    s.ctx.declaredLength = 0 ∧ s.ctx.accumulatedLength = 0 ∧ ∀ i, memRead i s = 0x00

/-- INV-TAIL (R29). -/
def InvTail (s : State) : Prop :=
  (stopped s.ctx.flags = false → ∀ i, s.ctx.accumulatedLength.toNat ≤ i → memRead i s = 0x00) ∧
  (stopped s.ctx.flags = true →
    memRead s.ctx.accumulatedLength.toNat s = s.params.term ∧
    ∀ i, s.ctx.accumulatedLength.toNat < i → memRead i s = 0x00)

/-- INV-VALUES (R30). -/
def InvValues (s : State) : Prop :=
  (∀ i, i < s.ctx.accumulatedLength.toNat → isDataValue (memRead i s) = true) ∧
  (lengthKnown s.ctx.flags = true → isDataValue s.ctx.declaredLength = true)

/-- The buffer's list is in canonical form and lists no slot outside `0..C−1` (20_memory.md R37). -/
def InvBuffer (s : State) : Prop :=
  Memory.wf s.ctx.buffer ∧ Memory.inRange s.params.capacity s.ctx.buffer

/-- The invariants of 10_state.md section 6 together. -/
structure Inv (s : State) : Prop where
  len    : InvLen s
  cap    : InvCap s
  flags  : InvFlags s
  stop   : InvStop s
  fresh  : InvFresh s
  tail   : InvTail s
  values : InvValues s
  buffer : InvBuffer s

/-! Runs. -/

/-- `k` steps. -/
def run (k : Nat) (s : State) : Result := Host.Core.run Sys2Proof.core k s

/-- The events of `k` steps, one per symbol (70_reset_and_hazards.md R130). -/
def events : Nat → State → List Event
  | 0, _ => []
  | k + 1, s =>
    match step s with
    | .next t    => t.ev :: events k t
    | .fault _   => []
    | .refused _ => []

/-- The operations of `k` steps, with the second-level decode of the DATA bytes (30_encoding.md R57). -/
def operations : Nat → State → List Instr
  | 0, _ => []
  | k + 1, s =>
    decodeInMode (modeBits s.ctx.flags) (fetch s) ::
      match step s with
      | .next t    => operations k t
      | .fault _   => []
      | .refused _ => []

/-- The context after a symbol, by `process` alone: a reset request gives the default context, an accepted byte what
`process` gives, and nothing presented changes nothing (70_reset_and_hazards.md R129). -/
def contextAfter (p : Params) (c : Context) (x : Symbol) : Context :=
  if x.rst || x.ctxReset then Context.default
  else if x.inValid then (process p c x.inByte).1
  else c

/-- Nothing is presented: the symbol IDLE (30_encoding.md R54). -/
def isIdle (x : Symbol) : Bool := !x.rst && !x.ctxReset && !x.inValid

/-! Frames. -/

/-- The bytes of one frame on the wire (30_encoding.md R61). -/
def wireFrame (L : Byte) (payload : List Byte) : List Byte := 0x02 :: L :: (payload ++ [0x03])

/-- The frame is representable (30_encoding.md R62: (a), (b), (c)). -/
def Representable (p : Params) (L : Byte) (payload : List Byte) : Prop :=
  L ≤ p.lmax ∧ (L ≠ 2 ∧ L ≠ 3 ∧ L ≠ 16) ∧ ∀ b ∈ payload, b ≠ 0x02 ∧ b ≠ 0x03 ∧ b ≠ 0x10

/-- The instruction is one of the ten DATA rows, with the byte `b`. -/
def IsDataRow (i : Instr) (b : Byte) : Prop :=
  i ∈ [.data0 b, .data1 b, .data2 b, .data3 b, .data4 b, .data5 b, .data6 b, .data7 b, .data8 b, .data9 b]

end Sys2Proof.Safety
end

