-- ==== Sys2Proof/Certificates/Slice0/Obligations.lean ====
section
/-! DEFINITION. The statements for the provers. "Every state" means every value of State: every `C` in 2..257, every `TERM`,
every flag value, reachable or not, and every list of symbols to come. -/

open Sys2Proof Sys2Proof.Machine Sys2Proof.Safety

/-! Encoding. -/

/-- Decode and encode agree: 30_encoding.md R54, R55, R57. -/
def Obligations.DecodeOfEncodeIsIdentity : Prop :=
  ∀ i : Instr, WellFormed i = true → decode (encode i) = .ok i

/-- The other direction: a word that decodes is the instruction's word but for the bits its row leaves free, and two words
with one meaning differ in those bits alone. -/
def Obligations.EncodeOfDecodeIsCanonicalWord : Prop :=
  (∀ (w : InstrWord) (i : Instr), decode w = .ok i → WellFormed i = true ∧ encode i = w.canonical) ∧
  (∀ w : InstrWord, decode w.canonical = decode w) ∧
  (∀ v w : InstrWord, ∀ i : Instr, decode v = .ok i → decode w = .ok i → v.canonical = w.canonical)

/-- 30_encoding.md R55: one class for every byte; the ten DATA patterns are disjoint and, with the three control values,
cover all 256; and the operation of each class. -/
def Obligations.EveryByteHasOneClass : Prop :=
  ∀ b : Byte,
    (bytePatterns.filter fun p => p.covers b).length = 1 ∧
    (patStart.covers b = true ↔ b = 0x02) ∧ (patStop.covers b = true ↔ b = 0x03) ∧ (patEsc.covers b = true ↔ b = 0x10) ∧
    ((dataPatterns.filter fun p => p.covers b).length = 1 ↔ b ≠ 0x02 ∧ b ≠ 0x03 ∧ b ≠ 0x10) ∧
    (patData0.covers b = true ↔ b = 0x00 ∨ b = 0x01) ∧
    (patData1.covers b = true ↔ 0x04 ≤ b ∧ b ≤ 0x07) ∧ (patData2.covers b = true ↔ 0x08 ≤ b ∧ b ≤ 0x0F) ∧
    (patData3.covers b = true ↔ b = 0x11) ∧ (patData4.covers b = true ↔ b = 0x12 ∨ b = 0x13) ∧
    (patData5.covers b = true ↔ 0x14 ≤ b ∧ b ≤ 0x17) ∧ (patData6.covers b = true ↔ 0x18 ≤ b ∧ b ≤ 0x1F) ∧
    (patData7.covers b = true ↔ 0x20 ≤ b ∧ b ≤ 0x3F) ∧ (patData8.covers b = true ↔ 0x40 ≤ b ∧ b ≤ 0x7F) ∧
    (patData9.covers b = true ↔ 0x80 ≤ b) ∧
    (decodeByte b = .start ↔ b = 0x02) ∧ (decodeByte b = .stop ↔ b = 0x03) ∧ (decodeByte b = .esc ↔ b = 0x10) ∧
    (IsDataRow (decodeByte b) b ↔ b ≠ 0x02 ∧ b ≠ 0x03 ∧ b ≠ 0x10)

/-- Words written out from the tables of R54, R55 and R57. -/
def Obligations.WrittenWordsDecode : Prop :=
  decode (.byte 0b00000010) = .ok .start ∧ decode (.byte 0b00000011) = .ok .stop ∧
  decode (.byte 0b00010000) = .ok .esc ∧ decode (.byte 0b00000001) = .ok (.data0 0x01) ∧
  decode (.byte 0b01000111) = .ok (.data8 0x47) ∧ decode (.byte 0b11111111) = .ok (.data9 0xFF) ∧
  decode (.ctrl 0b110 0x02) = .ok .hwreset ∧ decode (.ctrl 0b011 0x02) = .ok .reset ∧
  decode (.ctrl 0b001 0x41) = .ok (.byte 0x41) ∧ decode (.ctrl 0b000 0x02) = .ok .idle ∧
  decode (.dataMode 0b10 0x41) = .ok (.stray 0x41) ∧ decode (.dataMode 0b01 0x04) = .ok (.length 0x04) ∧
  decode (.dataMode 0b11 0x47) = .ok (.payload 0x47) ∧ decode (.dataMode 0b11 0x03) = .error (.notDataClass 0x03)

/-- 30_encoding.md R56: the three control values are control bytes in every position, whatever the flags. -/
def Obligations.ControlValuesAreNeverData : Prop :=
  ∀ mode : BitVec 2,
    decodeInMode mode (Symbol.ofByte 0x02) = .start ∧ decodeInMode mode (Symbol.ofByte 0x03) = .stop ∧
    decodeInMode mode (Symbol.ofByte 0x10) = .esc ∧
    (∀ b : Byte, b ≠ 0x02 → b ≠ 0x03 → b ≠ 0x10 →
      decodeInMode mode (Symbol.ofByte b) = .stray b ∨ decodeInMode mode (Symbol.ofByte b) = .length b ∨
      decodeInMode mode (Symbol.ofByte b) = .payload b)

/-! The step. -/

/-- The symbol sampled is decoded and run, and taken off the list. With no symbol waiting, IDLE is run: the model's choice,
entry 4. -/
def Obligations.StepRunsTheDecodedSymbol : Prop :=
  (∀ (s : State) (x : Symbol) (rest : List Symbol), s.input = x :: rest →
    step s = exec (decodeSymbol x) { s with input := rest }) ∧
  (∀ s : State, s.input = [] → step s = exec .idle s)

/-- 30_encoding.md R57: a DATA byte's three meanings are selected by Started and LengthKnown, and a step runs the one
selected. -/
def Obligations.StepRunsTheSecondLevelDecode : Prop :=
  (∀ (s : State) (x : Symbol) (rest : List Symbol), s.input = x :: rest →
    step s = exec (decodeInMode (modeBits s.ctx.flags) x) { s with input := rest }) ∧
  (∀ (s : State) (b : Byte), isDataValue b = true →
    (started s.ctx.flags = false → decodeInMode (modeBits s.ctx.flags) (Symbol.ofByte b) = .stray b) ∧
    (started s.ctx.flags = true → lengthKnown s.ctx.flags = false →
      decodeInMode (modeBits s.ctx.flags) (Symbol.ofByte b) = .length b) ∧
    (started s.ctx.flags = true → lengthKnown s.ctx.flags = true →
      decodeInMode (modeBits s.ctx.flags) (Symbol.ofByte b) = .payload b)) ∧
  (∀ (m n : BitVec 2) (b : Byte), isDataValue b = false →
    decodeInMode m (Symbol.ofByte b) = decodeInMode n (Symbol.ofByte b)) ∧
  (∀ f : BitVec 3, modeBits (f ^^^ 0b100) = modeBits f)

/-- 30_encoding.md R60: one operation per edge, with the priority of the lines; a byte beside a reset is lost; `k` accepted
bytes give `process` applied `k` times in order. -/
def Obligations.OneOperationPerEdge : Prop :=
  (∀ (s : State) (x : Symbol) (rest : List Symbol), s.input = x :: rest →
    (x.rst = true → step s = exec .hwreset { s with input := rest }) ∧
    (x.rst = false → x.ctxReset = true → step s = exec .reset { s with input := rest }) ∧
    (x.rst = false → x.ctxReset = false → x.inValid = true →
      step s = .next { s with
        ctx := (process s.params s.ctx x.inByte).1, ev := (process s.params s.ctx x.inByte).2, input := rest }) ∧
    (x.rst = false → x.ctxReset = false → x.inValid = false → step s = exec .idle { s with input := rest })) ∧
  (∀ (s : State) (bytes : List Byte) (rest : List Symbol), s.input = bytes.map Symbol.ofByte ++ rest →
    ∃ t, run bytes.length s = .next t ∧ t.ctx = processAll s.params s.ctx bytes ∧ t.params = s.params ∧ t.input = rest)

/-- 30_encoding.md R59: `in_byte` is ignored whenever the symbol is not a byte symbol. -/
def Obligations.ByteIsIgnoredWhenNotValid : Prop :=
  ∀ (s : State) (x : Symbol) (b : Byte) (rest : List Symbol),
    (x.rst = true ∨ x.ctxReset = true ∨ x.inValid = false) →
      step { s with input := x :: rest } = step { s with input := { x with inByte := b } :: rest }

/-- 70_reset_and_hazards.md R129: the context after any symbols is `process` folded over the accepted bytes, with the resets
interleaved and the idle cycles dropped. -/
def Obligations.ClockMayBeDropped : Prop :=
  ∀ (s : State) (xs rest : List Symbol), s.input = xs ++ rest →
    ∃ t, run xs.length s = .next t ∧ t.input = rest ∧ t.params = s.params ∧
      t.ctx = (xs.filter fun x => !isIdle x).foldl (contextAfter s.params) s.ctx

/-- 60_exceptions.md R105: no halt, no fault state, no sticky bit. Every instruction and every step answers a next state, and
no step depends on the event before it. -/
def Obligations.BlockNeverStops : Prop :=
  (∀ (i : Instr) (s : State), ∃ t, exec i s = .next t) ∧
  (∀ s : State, ∃ t, step s = .next t) ∧
  (∀ (s : State) (e : Event), step { s with ev := e } = step s)

/-- 70_reset_and_hazards.md R120, its last sentence: from a START on, the run is as from reset. -/
def Obligations.StartSynchronises : Prop :=
  ∀ (s : State) (rest : List Symbol) (k : Nat), s.input = Symbol.ofByte 0x02 :: rest →
    run (k + 1) s = run (k + 1) { State.resetWith s.params with input := s.input } ∧
    events (k + 1) s = events (k + 1) { State.resetWith s.params with input := s.input }

/-! Reset and the control symbols. -/

/-- 10_state.md R23: the state after a hardware reset, and the states after RESET, ESC and START. -/
def Obligations.ResetStateIsDefault : Prop :=
  (∀ p : Params, let s := State.resetWith p
    s.ctx.flags = 0b000 ∧ inState .idle s.ctx.flags = true ∧ s.ctx.declaredLength = 0 ∧ s.ctx.accumulatedLength = 0 ∧
    (∀ i, i < p.capacity → memRead i s = 0x00) ∧ s.ev.bits = 0b0000 ∧
    (ports s).frameDone = false ∧ (ports s).errValid = false ∧ (ports s).errCode = 0) ∧
  (∀ s : State,
    exec .hwreset s = .next { State.resetWith s.params with input := s.input } ∧
    exec .reset s = .next { State.resetWith s.params with input := s.input } ∧
    exec .esc s = .next { State.resetWith s.params with input := s.input } ∧
    exec .start s = .next { s with ctx := { Context.default with flags := 0b001 }, ev := .none })

/-- 42_context_ops.md R83. -/
def Obligations.HardwareResetGivesDefault : Prop :=
  (∀ x : Symbol, x.rst = true → decodeSymbol x = .hwreset) ∧
  (∀ s : State, exec .hwreset s = .next { s with ctx := Context.default, ev := .none }) ∧
  (∀ (s : State) (xs rest : List Symbol), s.input = xs ++ rest → xs ≠ [] → (∀ x ∈ xs, x.rst = true) →
    run xs.length s = .next { s with ctx := Context.default, ev := .none, input := rest }) ∧
  inState .idle Context.default.flags = true

/-- 42_context_ops.md R84. -/
def Obligations.ContextResetGivesDefault : Prop :=
  (∀ x : Symbol, x.rst = false → x.ctxReset = true → decodeSymbol x = .reset) ∧
  (∀ s : State, exec .reset s = .next { s with ctx := Context.default, ev := .none } ∧
    (s.ctx = Context.default → exec .reset s = .next { s with ev := .none })) ∧
  Context.default.flags = 0b000 ∧ Context.default.declaredLength = 0 ∧ Context.default.accumulatedLength = 0 ∧
  (∀ i, bufRead Context.default.buffer i = 0x00) ∧
  (∀ s t : State, exec .reset s = .next t → equals s.params t.ctx (State.resetWith s.params).ctx = true)

/-- 42_context_ops.md R85: an idle edge ends the event and changes nothing else, and so does any number of them. -/
def Obligations.IdleOnlyEndsTheEvent : Prop :=
  (∀ x : Symbol, isIdle x = true → decodeSymbol x = .idle) ∧
  (∀ s : State, exec .idle s = .next { s with ev := .none }) ∧
  (∀ (s : State) (xs rest : List Symbol), s.input = xs ++ rest → xs ≠ [] → (∀ x ∈ xs, isIdle x = true) →
    run xs.length s = .next { s with ev := .none, input := rest })

/-- 40_control_bytes.md R71. -/
def Obligations.StartBeginsAFreshFrame : Prop :=
  decodeByte 0x02 = .start ∧
  (∀ s : State,
    exec .start s = .next { s with ctx := ⟨0b001, 0, 0, []⟩, ev := .none } ∧
    exec (.byte 0x02) s = exec .start s ∧
    (∀ i, memRead i { s with ctx := ⟨0b001, 0, 0, []⟩, ev := .none } = 0x00)) ∧
  inState .awaitingLength 0b001 = true

/-- 40_control_bytes.md R72. -/
def Obligations.EscAborts : Prop :=
  decodeByte 0x10 = .esc ∧
  (∀ s : State,
    exec .esc s = .next { s with ctx := Context.default, ev := .none } ∧
    exec (.byte 0x10) s = exec .esc s ∧ exec .esc s = exec .reset s ∧ exec .esc s = exec .hwreset s ∧
    (∀ b : Byte, isDataValue b = true →
      exec (decodeByte b) { s with ctx := Context.default, ev := .none } =
        .next { s with ctx := Context.default, ev := .err .missingStart })) ∧
  inState .idle Context.default.flags = true ∧ (∀ i, bufRead Context.default.buffer i = 0x00)

/-- 40_control_bytes.md R73: the checks in order, each with its kind, and the success. -/
def Obligations.StopOutcome : Prop :=
  decodeByte 0x03 = .stop ∧
  (∀ s : State, exec (.byte 0x03) s = exec .stop s) ∧
  (∀ s : State, started s.ctx.flags = false → exec .stop s = .next { s with ev := .err .missingStart }) ∧
  (∀ s : State, started s.ctx.flags = true → lengthKnown s.ctx.flags = false →
    exec .stop s = .next { s with ev := .err .notReady }) ∧
  (∀ s : State, started s.ctx.flags = true → lengthKnown s.ctx.flags = true →
    s.ctx.accumulatedLength ≠ s.ctx.declaredLength → exec .stop s = .next { s with ev := .err .lengthMismatch }) ∧
  (∀ s : State, started s.ctx.flags = true → lengthKnown s.ctx.flags = true →
    s.ctx.accumulatedLength = s.ctx.declaredLength → s.params.lmax < s.ctx.accumulatedLength →
    exec .stop s = .next { s with ev := .err .bufferOverflow }) ∧
  (∀ s : State, Memory.wf s.ctx.buffer → started s.ctx.flags = true → lengthKnown s.ctx.flags = true →
    s.ctx.accumulatedLength = s.ctx.declaredLength → s.ctx.accumulatedLength ≤ s.params.lmax →
    ∃ t, exec .stop s = .next t ∧ t.ctx.flags = s.ctx.flags ||| 0b100 ∧
      inState .frameComplete t.ctx.flags = true ∧
      t.ctx.declaredLength = s.ctx.declaredLength ∧ t.ctx.accumulatedLength = s.ctx.accumulatedLength ∧
      memRead (storeIndex s) t = s.params.term ∧ (∀ i, i ≠ storeIndex s → memRead i t = memRead i s) ∧
      t.ev = .done ∧ t.params = s.params ∧ t.input = s.input)

/-- 40_control_bytes.md R74: STOP in FrameComplete succeeds again and leaves the context as it is. -/
def Obligations.StopAgainSucceeds : Prop :=
  ∀ s : State, Inv s → stopped s.ctx.flags = true → exec .stop s = .next { s with ev := .done }

/-! The data bytes. -/

/-- 41_data_bytes.md R77: the dispatch of every DATA row, in every state. -/
def Obligations.DataRowsDispatchByFlags : Prop :=
  (∀ b : Byte, isDataValue b = true → IsDataRow (decodeByte b) b) ∧
  (∀ (i : Instr) (b : Byte) (s : State), IsDataRow i b →
    (started s.ctx.flags = false → exec i s = exec (.stray b) s) ∧
    (started s.ctx.flags = true → lengthKnown s.ctx.flags = false → exec i s = exec (.length b) s) ∧
    (started s.ctx.flags = true → lengthKnown s.ctx.flags = true → exec i s = exec (.payload b) s))

/-- 41_data_bytes.md R78. -/
def Obligations.LengthOutcome : Prop :=
  (∀ (s : State) (b : Byte), isDataValue b = true → started s.ctx.flags = true → lengthKnown s.ctx.flags = false →
    exec (decodeByte b) s = exec (.length b) s) ∧
  (∀ (s : State) (b : Byte), b ≤ s.params.lmax →
    exec (.length b) s = .next { s with
      ctx := { s.ctx with declaredLength := b, flags := s.ctx.flags ||| 0b010 }, ev := .none }) ∧
  (∀ (s : State) (b : Byte), s.params.lmax < b →
    exec (.length b) s = .next { s with ev := .err .bufferOverflow }) ∧
  (∀ s : State, s.ctx.flags = 0b001 → inState .accumulatingPayload (s.ctx.flags ||| 0b010) = true)

/-- 41_data_bytes.md R79, with the check of 90_conflicts.md C2. -/
def Obligations.PayloadOutcome : Prop :=
  (∀ (s : State) (b : Byte), isDataValue b = true → started s.ctx.flags = true → lengthKnown s.ctx.flags = true →
    exec (decodeByte b) s = exec (.payload b) s) ∧
  (∀ (s : State) (b : Byte), s.params.lmax ≤ s.ctx.accumulatedLength ∨ s.ctx.declaredLength ≤ s.ctx.accumulatedLength →
    exec (.payload b) s = .next { s with ev := .err .bufferOverflow }) ∧
  (∀ (s : State) (b : Byte), Memory.wf s.ctx.buffer →
    s.ctx.accumulatedLength < s.params.lmax → s.ctx.accumulatedLength < s.ctx.declaredLength →
    ∃ t, exec (.payload b) s = .next t ∧ t.ctx.flags = s.ctx.flags ∧ t.ctx.declaredLength = s.ctx.declaredLength ∧
      t.ctx.accumulatedLength.toNat = s.ctx.accumulatedLength.toNat + 1 ∧
      memRead (storeIndex s) t = b ∧ (∀ i, i ≠ storeIndex s → memRead i t = memRead i s) ∧
      t.ev = .none ∧ t.params = s.params ∧ t.input = s.input) ∧
  (∀ s : State, Inv s → s.params.lmax ≤ s.ctx.accumulatedLength → s.ctx.declaredLength ≤ s.ctx.accumulatedLength)

/-- 41_data_bytes.md R80: every stray data byte raises its own error and changes nothing, and so does a run of them. -/
def Obligations.StrayOutcome : Prop :=
  (∀ (s : State) (b : Byte), isDataValue b = true → started s.ctx.flags = false →
    exec (decodeByte b) s = exec (.stray b) s) ∧
  (∀ (s : State) (b : Byte), exec (.stray b) s = .next { s with ev := .err .missingStart }) ∧
  (∀ (s : State) (bytes : List Byte) (rest : List Symbol), started s.ctx.flags = false →
    (∀ b ∈ bytes, isDataValue b = true) → s.input = bytes.map Symbol.ofByte ++ rest →
    events bytes.length s = List.replicate bytes.length (.err .missingStart) ∧
    ∃ t, run bytes.length s = .next t ∧ t.ctx = s.ctx ∧ t.input = rest)

/-- Where the DATA rows and the CTRL row BYTE are accepted, and what they then do (41_data_bytes.md R78, R79, 42_context_ops.md
R88). -/
def Obligations.DataRowsAndByteAccept : Prop :=
  ∀ (i : Instr) (b : Byte) (s : State), isDataValue b = true → IsDataRow i b ∨ i = .byte b →
    started s.ctx.flags = true →
    (lengthKnown s.ctx.flags = false → b ≤ s.params.lmax →
      exec i s = .next { s with
        ctx := { s.ctx with declaredLength := b, flags := s.ctx.flags ||| 0b010 }, ev := .none }) ∧
    (Memory.wf s.ctx.buffer → lengthKnown s.ctx.flags = true → s.ctx.accumulatedLength < s.params.lmax →
      s.ctx.accumulatedLength < s.ctx.declaredLength →
      ∃ t, exec i s = .next t ∧ t.ctx.flags = s.ctx.flags ∧ t.ctx.declaredLength = s.ctx.declaredLength ∧
        t.ctx.accumulatedLength = s.ctx.accumulatedLength + 1 ∧
        memRead (storeIndex s) t = b ∧ (∀ j, j ≠ storeIndex s → memRead j t = memRead j s) ∧
        t.ev = .none ∧ t.params = s.params ∧ t.input = s.input)

/-- 42_context_ops.md R88: the meanings, written from the pseudocode of R71 to R80, are the table of `process`. -/
def Obligations.ByteStepIsTheProcessTable : Prop :=
  ∀ (s : State) (b : Byte),
    let t : State := { s with ctx := (process s.params s.ctx b).1, ev := (process s.params s.ctx b).2 }
    exec (.byte b) s = .next t ∧ exec (decodeByte b) s = .next t ∧
    (isDataValue b = true → ∀ i, IsDataRow i b → exec i s = .next t)

/-! Errors and events. -/

/-- 60_exceptions.md R100: entering an error changes nothing but `EV`, for every instruction and every kind. -/
def Obligations.ErrorLeavesTheContext : Prop :=
  ∀ (i : Instr) (s t : State) (k : ErrKind), exec i s = .next t → t.ev = .err k →
    t.ctx = s.ctx ∧ t.params = s.params ∧ t.input = s.input ∧
    (ports t).errValid = true ∧ (ports t).errCode = k.code ∧ (ports t).frameDone = false

/-- 60_exceptions.md R101: which error a byte reports in each of the four reachable protocol states. -/
def Obligations.ErrorsByProtocolState : Prop :=
  ∀ s t : State, Inv s →
    (exec .start s = .next t ∨ exec .esc s = .next t ∨ exec .reset s = .next t ∨ exec .hwreset s = .next t ∨
      exec .idle s = .next t → t.ev = .none) ∧
    (exec .stop s = .next t →
      (inState .idle s.ctx.flags = true → t.ev = .err .missingStart) ∧
      (inState .awaitingLength s.ctx.flags = true → t.ev = .err .notReady) ∧
      (inState .accumulatingPayload s.ctx.flags = true →
        (t.ev = .err .lengthMismatch ↔ s.ctx.accumulatedLength ≠ s.ctx.declaredLength) ∧
        (t.ev = .done ↔ s.ctx.accumulatedLength = s.ctx.declaredLength)) ∧
      (inState .frameComplete s.ctx.flags = true → t.ev = .done)) ∧
    (∀ b : Byte, isDataValue b = true → exec (decodeByte b) s = .next t →
      (inState .idle s.ctx.flags = true → t.ev = .err .missingStart) ∧
      (inState .awaitingLength s.ctx.flags = true →
        (t.ev = .err .bufferOverflow ↔ s.params.lmax < b) ∧ (t.ev = .none ↔ b ≤ s.params.lmax)) ∧
      (inState .accumulatingPayload s.ctx.flags = true →
        (t.ev = .err .bufferOverflow ↔ s.ctx.accumulatedLength = s.ctx.declaredLength) ∧
        (t.ev = .none ↔ s.ctx.accumulatedLength < s.ctx.declaredLength)) ∧
      (inState .frameComplete s.ctx.flags = true → t.ev = .err .bufferOverflow))

/-- 60_exceptions.md R95. -/
def Obligations.MissingStartCause : Prop :=
  ErrKind.missingStart.code = 2 ∧
  ∀ (s t : State) (b : Byte), exec (decodeByte b) s = .next t →
    (t.ev = .err .missingStart ↔ started s.ctx.flags = false ∧ (isDataValue b = true ∨ b = 0x03))

/-- 60_exceptions.md R96. -/
def Obligations.LengthMismatchCause : Prop :=
  ErrKind.lengthMismatch.code = 3 ∧
  ∀ (s t : State) (b : Byte), exec (decodeByte b) s = .next t →
    (t.ev = .err .lengthMismatch ↔ b = 0x03 ∧ started s.ctx.flags = true ∧ lengthKnown s.ctx.flags = true ∧
      s.ctx.accumulatedLength ≠ s.ctx.declaredLength) ∧
    (Inv s → t.ev = .err .lengthMismatch → s.ctx.accumulatedLength < s.ctx.declaredLength)

/-- 60_exceptions.md R93 (the row of code 4) and R97. -/
def Obligations.BufferOverflowCause : Prop :=
  ErrKind.bufferOverflow.code = 4 ∧
  ∀ (s t : State) (b : Byte), exec (decodeByte b) s = .next t →
    (t.ev = .err .bufferOverflow ↔
      started s.ctx.flags = true ∧
      ((isDataValue b = true ∧ lengthKnown s.ctx.flags = false ∧ s.params.lmax < b) ∨
       (isDataValue b = true ∧ lengthKnown s.ctx.flags = true ∧
         (s.params.lmax ≤ s.ctx.accumulatedLength ∨ s.ctx.declaredLength ≤ s.ctx.accumulatedLength)) ∨
       (b = 0x03 ∧ lengthKnown s.ctx.flags = true ∧ s.ctx.accumulatedLength = s.ctx.declaredLength ∧
         s.params.lmax < s.ctx.accumulatedLength)))

/-- 60_exceptions.md R98. -/
def Obligations.NotReadyCause : Prop :=
  ErrKind.notReady.code = 5 ∧
  ∀ (s t : State) (b : Byte), exec (decodeByte b) s = .next t →
    (t.ev = .err .notReady ↔ b = 0x03 ∧ started s.ctx.flags = true ∧ lengthKnown s.ctx.flags = false)

/-- 60_exceptions.md R94: code 1 is in the taxonomy and no instruction raises it. -/
def Obligations.InvalidContextIsNeverRaised : Prop :=
  ErrKind.invalidContext.code = 1 ∧
  ∀ (i : Instr) (s t : State), exec i s = .next t →
    t.ev ≠ .err .invalidContext ∧ (ports t).errCode ≠ 1 ∧ (ports t).errCode ≠ 6 ∧ (ports t).errCode ≠ 7

/-- 10_state.md R18: the values of `EV` after a step, all of it overwritten; an edge that accepts no byte writes None. -/
def Obligations.EventRegisterAfterAStep : Prop :=
  ∀ s t : State, step s = .next t →
    t.ev.bits ∈ [0b0000, 0b1000, 0b0010, 0b0011, 0b0100, 0b0101] ∧
    ((fetch s).isByte = false → t.ev.bits = 0b0000) ∧
    ¬((ports t).frameDone = true ∧ (ports t).errValid = true) ∧
    (∀ e : Event, step { s with ev := e } = .next t)

/-- 60_exceptions.md R106: `Done` is raised by a successful STOP and by nothing else; the ports show the frame beside it, and
it ends at the next edge, but for another STOP. -/
def Obligations.DoneCause : Prop :=
  ∀ s t : State, step s = .next t →
    ((ports t).frameDone = true ↔
      (fetch s).isByte = true ∧ (fetch s).inByte = 0x03 ∧ started s.ctx.flags = true ∧ lengthKnown s.ctx.flags = true ∧
      s.ctx.accumulatedLength = s.ctx.declaredLength ∧ s.ctx.accumulatedLength ≤ s.params.lmax) ∧
    ((ports t).frameDone = true →
      (ports t).flags = s.ctx.flags ||| 0b100 ∧ (ports t).declaredLength = s.ctx.declaredLength ∧
      (ports t).accumulatedLength = s.ctx.accumulatedLength ∧ (ports t).errValid = false) ∧
    (∀ u, step t = .next u → (fetch t).isByte = false → (ports u).frameDone = false)

/-- 60_exceptions.md R107: what the ports and the buffer show when `frame_done = 1`. -/
def Obligations.HandOffShowsTheFrame : Prop :=
  ∀ s t : State, Inv s → step s = .next t → (ports t).frameDone = true →
    (ports t).flags = 0b111 ∧ (ports t).accumulatedLength = (ports t).declaredLength ∧
    memRead t.ctx.accumulatedLength.toNat t = t.params.term ∧
    (∀ i, t.ctx.accumulatedLength.toNat < i → memRead i t = 0x00) ∧
    (∀ i, i < t.ctx.accumulatedLength.toNat → memRead i t = memRead i s)

/-- 60_exceptions.md R108: a representable frame, from any start state and with any idle edges between its bytes, is parsed
with its payload in order, and raises `Done` once, at its last byte, and no error. -/
def Obligations.FrameIsHandedOverExactlyOnce : Prop :=
  ∀ (s : State) (L : Byte) (payload : List Byte) (xs rest : List Symbol),
    payload.length = L.toNat → Representable s.params L payload →
    (xs.filter fun x => !isIdle x) = (0x02 :: L :: payload).map Symbol.ofByte →
    s.input = xs ++ Symbol.ofByte 0x03 :: rest →
    events (xs.length + 1) s = List.replicate xs.length .none ++ [.done] ∧
    ∃ t, run (xs.length + 1) s = .next t ∧ t.ctx.flags = 0b111 ∧ t.ctx.declaredLength = L ∧ t.ctx.accumulatedLength = L ∧
      (∀ i, i < payload.length → some (memRead i t) = payload[i]?) ∧ memRead L.toNat t = s.params.term ∧
      (∀ i, L.toNat < i → memRead i t = 0x00) ∧ t.params = s.params ∧ t.input = rest

/-- 30_encoding.md R62: a byte sequence of the form of R61 is parsed as one frame, each byte accepted in its role and the
last with `Done`, iff the frame is representable. -/
def Obligations.ParsedAsAFrameIffRepresentable : Prop :=
  ∀ (s : State) (L : Byte) (payload : List Byte) (rest : List Symbol),
    payload.length = L.toNat → s.input = (wireFrame L payload).map Symbol.ofByte ++ rest →
    ((operations (L.toNat + 3) s = [.start, .length L] ++ payload.map .payload ++ [.stop] ∧
      events (L.toNat + 3) s = List.replicate (L.toNat + 2) .none ++ [.done]) ↔
     Representable s.params L payload)

/-! Invariants. -/

/-- The invariants of 10_state.md section 6 hold after reset, whatever the parameters. That `State.reset` is the reset state
of the block built with the default parameters (`C = 64`, `TERM = 0x00`), with no symbol waiting, is the model's choice,
entries 2 and 3. -/
def Obligations.InvHoldsAtReset : Prop :=
  (∀ p : Params, Inv (State.resetWith p)) ∧
  State.reset = State.resetWith (Params.ofCapacity 64 0x00) ∧ State.reset.input = []

/-- Every step keeps the invariants of 10_state.md section 6 (R24 to R30). -/
def Obligations.StepKeepsInv : Prop :=
  ∀ s t : State, Inv s → step s = .next t → Inv t

/-- Every instruction keeps the buffer's canonical form and lists no slot outside `0..C−1` (20_memory.md R37, R44). -/
def Obligations.EveryInstructionKeepsTheBufferForm : Prop :=
  ∀ (i : Instr) (s t : State), InvBuffer s → exec i s = .next t → InvBuffer t

/-- 10_state.md R26: within a frame flags are monotonic, each is set only after the one before it, and from the reset state
`flags` takes four values. -/
def Obligations.FlagsAreMonotonicWithinAFrame : Prop :=
  ∀ s t : State, step s = .next t →
    (decodeSymbol (fetch s) ∉ [.start, .esc, .reset, .hwreset] → s.ctx.flags &&& t.ctx.flags = s.ctx.flags) ∧
    (started t.ctx.flags = true → started s.ctx.flags = false → t.ctx.flags = 0b001) ∧
    (lengthKnown t.ctx.flags = true → lengthKnown s.ctx.flags = false → started s.ctx.flags = true) ∧
    (stopped t.ctx.flags = true → stopped s.ctx.flags = false →
      started s.ctx.flags = true ∧ lengthKnown s.ctx.flags = true ∧
      s.ctx.accumulatedLength = s.ctx.declaredLength) ∧
    (Inv s → t.ctx.flags ∈ [0b000, 0b001, 0b011, 0b111])

/-- 10_state.md R27: while Stopped is set, no operation but the four resetting ones changes any context field. -/
def Obligations.CompletedFrameIsHeld : Prop :=
  ∀ s t : State, Inv s → stopped s.ctx.flags = true → step s = .next t →
    decodeSymbol (fetch s) ∉ [.start, .esc, .reset, .hwreset] → t.ctx = s.ctx

/-- 10_state.md R29, 90_conflicts.md C4: no operation but the clears writes slot `C − 1`, in any state, and
those make it 0x00. -/
def Obligations.LastSlotIsNeverWritten : Prop :=
  ∀ (i : Instr) (s t : State), InvBuffer s → exec i s = .next t →
    (i ∈ [.start, .esc, .reset, .hwreset, .byte 0x02, .byte 0x10] → memRead (s.params.capacity - 1) t = 0x00) ∧
    (i ∉ [.start, .esc, .reset, .hwreset, .byte 0x02, .byte 0x10] →
      memRead (s.params.capacity - 1) t = memRead (s.params.capacity - 1) s)

/-- 10_state.md R16: what writes `accumulated_length`, and with what; it never wraps. -/
def Obligations.AccumulatedLengthIsWrittenOnly : Prop :=
  (∀ s t : State, step s = .next t →
    (decodeSymbol (fetch s) ∈ [.start, .esc, .reset, .hwreset] → t.ctx.accumulatedLength = 0) ∧
    (decodeSymbol (fetch s) ∉ [.start, .esc, .reset, .hwreset] →
      decodeInMode (modeBits s.ctx.flags) (fetch s) = .payload (fetch s).inByte → t.ev = .none →
      t.ctx.accumulatedLength.toNat = s.ctx.accumulatedLength.toNat + 1 ∧
      s.ctx.accumulatedLength < s.ctx.declaredLength ∧
      (Memory.wf s.ctx.buffer → memRead s.ctx.accumulatedLength.toNat t = (fetch s).inByte)) ∧
    (decodeSymbol (fetch s) ∉ [.start, .esc, .reset, .hwreset] →
      (decodeInMode (modeBits s.ctx.flags) (fetch s) ≠ .payload (fetch s).inByte ∨ t.ev ≠ .none) →
      t.ctx.accumulatedLength = s.ctx.accumulatedLength)) ∧
  (∀ s : State, Inv s → s.ctx.accumulatedLength ≤ s.ctx.declaredLength)

/-- 10_state.md R15: what writes `declared_length`, and with what. -/
def Obligations.DeclaredLengthIsWrittenOnly : Prop :=
  ∀ s t : State, step s = .next t →
    (decodeSymbol (fetch s) ∈ [.start, .esc, .reset, .hwreset] → t.ctx.declaredLength = 0) ∧
    (decodeSymbol (fetch s) ∉ [.start, .esc, .reset, .hwreset] →
      decodeInMode (modeBits s.ctx.flags) (fetch s) = .length (fetch s).inByte → t.ev = .none →
      t.ctx.declaredLength = (fetch s).inByte ∧ (fetch s).inByte ≤ s.params.lmax) ∧
    (decodeSymbol (fetch s) ∉ [.start, .esc, .reset, .hwreset] →
      (decodeInMode (modeBits s.ctx.flags) (fetch s) ≠ .length (fetch s).inByte ∨ t.ev ≠ .none) →
      t.ctx.declaredLength = s.ctx.declaredLength) ∧
    (Inv s → s.ctx.declaredLength ≤ s.params.lmax ∧ (lengthKnown s.ctx.flags = false → s.ctx.declaredLength = 0)) ∧
    (∀ d : Byte, lengthKnown s.ctx.flags = false → ∃ u, step (s.setDeclared d) = .next u ∧
      u.ev = t.ev ∧ u.ctx.flags = t.ctx.flags ∧ u.ctx.accumulatedLength = t.ctx.accumulatedLength ∧
      u.ctx.buffer = t.ctx.buffer)

/-! Frames of the instructions: what they leave unchanged (10_state.md R33). -/

/-- The instructions that store nothing, in every form: IDLE, STRAY and LENGTH, and the DATA rows and BYTE where a data byte
is no payload. LENGTH also writes `declared_length` and LengthKnown, and every step `EV`. -/
def Obligations.NonStoringInstructionsFrame : Prop :=
  ∀ (i : Instr) (b : Byte) (s t : State), exec i s = .next t →
    i = .idle ∨ i = .stray b ∨ i = .length b ∨
      ((IsDataRow i b ∨ (i = .byte b ∧ isDataValue b = true)) ∧
        (started s.ctx.flags = false ∨ lengthKnown s.ctx.flags = false)) →
    (∀ j, memRead j t = memRead j s) ∧ t.ctx.accumulatedLength = s.ctx.accumulatedLength ∧
    started t.ctx.flags = started s.ctx.flags ∧ stopped t.ctx.flags = stopped s.ctx.flags ∧
    (i = .idle ∨ i = .stray b ∨ (i ≠ .length b ∧ started s.ctx.flags = false) → t.ctx = s.ctx) ∧
    t.params = s.params ∧ t.input = s.input

/-- The instructions that may store one byte: STOP and PAYLOAD, and the DATA rows and BYTE where they are one of these. The
byte stored to is that of `storeIndex` in the state before. STOP also writes Stopped, PAYLOAD `accumulated_length`, and
every step `EV`. -/
def Obligations.StoringInstructionsFrame : Prop :=
  ∀ (i : Instr) (b : Byte) (s t : State), InvBuffer s → exec i s = .next t →
    i = .stop ∨ i = .byte 0x03 ∨ i = .payload b ∨
      ((IsDataRow i b ∨ (i = .byte b ∧ isDataValue b = true)) ∧
        started s.ctx.flags = true ∧ lengthKnown s.ctx.flags = true) →
    (∀ a, storeIndex s = a → ∀ j, j ≠ a → memRead j t = memRead j s) ∧
    t.ctx.declaredLength = s.ctx.declaredLength ∧
    started t.ctx.flags = started s.ctx.flags ∧ lengthKnown t.ctx.flags = lengthKnown s.ctx.flags ∧
    (i = .stop ∨ i = .byte 0x03 → t.ctx.accumulatedLength = s.ctx.accumulatedLength) ∧
    (i ≠ .stop → i ≠ .byte 0x03 → t.ctx.flags = s.ctx.flags) ∧
    t.params = s.params ∧ t.input = s.input

/-- The four resetting operations write every context field and `EV`, and nothing else; no instruction writes the parameters
or the symbols that wait. -/
def Obligations.ResettingInstructionsFrame : Prop :=
  (∀ (i : Instr) (s t : State), exec i s = .next t → t.params = s.params ∧ t.input = s.input) ∧
  (∀ (i : Instr) (s t : State), exec i s = .next t →
    i = .start ∨ i = .esc ∨ i = .reset ∨ i = .hwreset ∨ i = .byte 0x02 ∨ i = .byte 0x10 →
    t = { s with ctx := { Context.default with flags := t.ctx.flags }, ev := .none } ∧
    t.ctx.flags = if i = .start ∨ i = .byte 0x02 then 0b001 else 0b000)

/-! State transitions, ports, comparisons, independence. -/

/-- 42_context_ops.md R89: the transition table over the four reachable states. -/
def Obligations.TransitionTable : Prop :=
  ∀ s : State, Inv s →
    (∃ t, exec .start s = .next t ∧ inState .awaitingLength t.ctx.flags = true ∧ t.ev = .none) ∧
    (∀ i ∈ [Instr.esc, .reset, .hwreset], ∃ t, exec i s = .next t ∧ inState .idle t.ctx.flags = true ∧ t.ev = .none) ∧
    (∃ t, exec .idle s = .next t ∧ t.ctx.flags = s.ctx.flags ∧ t.ev = .none) ∧
    (∀ b : Byte, isDataValue b = true → ∃ t u, exec .stop s = .next t ∧ exec (decodeByte b) s = .next u ∧
      (inState .idle s.ctx.flags = true →
        inState .idle t.ctx.flags = true ∧ t.ev = .err .missingStart ∧
        inState .idle u.ctx.flags = true ∧ u.ev = .err .missingStart) ∧
      (inState .awaitingLength s.ctx.flags = true →
        inState .awaitingLength t.ctx.flags = true ∧ t.ev = .err .notReady ∧
        (b ≤ s.params.lmax → inState .accumulatingPayload u.ctx.flags = true ∧ u.ev = .none) ∧
        (s.params.lmax < b → inState .awaitingLength u.ctx.flags = true ∧ u.ev = .err .bufferOverflow)) ∧
      (inState .accumulatingPayload s.ctx.flags = true →
        (s.ctx.accumulatedLength = s.ctx.declaredLength →
          inState .frameComplete t.ctx.flags = true ∧ t.ev = .done ∧
          inState .accumulatingPayload u.ctx.flags = true ∧ u.ev = .err .bufferOverflow) ∧
        (s.ctx.accumulatedLength ≠ s.ctx.declaredLength →
          inState .accumulatingPayload t.ctx.flags = true ∧ t.ev = .err .lengthMismatch ∧
          inState .accumulatingPayload u.ctx.flags = true ∧ u.ev = .none ∧
          u.ctx.accumulatedLength = s.ctx.accumulatedLength + 1)) ∧
      (inState .frameComplete s.ctx.flags = true →
        inState .frameComplete t.ctx.flags = true ∧ t.ev = .done ∧
        inState .frameComplete u.ctx.flags = true ∧ u.ev = .err .bufferOverflow))

/-- 10_state.md R19: the protocol states of the eight values of `flags`. -/
def Obligations.ProtocolStateOfFlags : Prop :=
  (∀ p, inState p 0b000 = true ↔ p = .idle) ∧ (∀ p, inState p 0b001 = true ↔ p = .awaitingLength) ∧
  (∀ p, inState p 0b011 = true ↔ p = .accumulatingPayload) ∧ (∀ p, inState p 0b111 = true ↔ p = .frameComplete) ∧
  (∀ p, inState p 0b010 = false) ∧ (∀ p, inState p 0b100 = true ↔ p = .frameComplete) ∧
  (∀ p, inState p 0b101 = true ↔ p = .frameComplete ∨ p = .awaitingLength) ∧
  (∀ p, inState p 0b110 = true ↔ p = .frameComplete)

/-- 10_state.md R21, R22: the output ports are wires from the registers, `err_valid = (EV[2:0] ≠ 0)`, `in_ready` is 1. -/
def Obligations.PortsShowTheRegisters : Prop :=
  ∀ s : State,
    (ports s).inReady = true ∧ (ports s).flags = s.ctx.flags ∧ (ports s).declaredLength = s.ctx.declaredLength ∧
    (ports s).accumulatedLength = s.ctx.accumulatedLength ∧ (ports s).frameDone = s.ev.bits.getLsbD 3 ∧
    (ports s).errCode = s.ev.bits.extractLsb' 0 3 ∧
    ((ports s).errValid = true ↔ s.ev.bits.extractLsb' 0 3 ≠ 0)

/-- 20_memory.md R41: the read port, which can address every slot. -/
def Obligations.ReadPortReadsEverySlot : Prop :=
  ∀ s : State,
    (∀ a : BitVec s.params.addrWidth, a.toNat ≤ s.params.capacity - 1 → rdData s a = memRead a.toNat s) ∧
    (∀ a : BitVec s.params.addrWidth, s.params.capacity - 1 < a.toNat → rdData s a = 0x00) ∧
    (∀ i, i < s.params.capacity → ∃ a : BitVec s.params.addrWidth, a.toNat = i ∧ rdData s a = memRead i s)

/-- 42_context_ops.md R86: EQUALS is the conjunction of the field equalities, and an equivalence. -/
def Obligations.EqualsIsStrictEquality : Prop :=
  ∀ p : Params,
    (∀ x y : Context, equals p x y = true ↔
      x.flags = y.flags ∧ x.declaredLength = y.declaredLength ∧ x.accumulatedLength = y.accumulatedLength ∧
      ∀ i, i < p.capacity → bufRead x.buffer i = bufRead y.buffer i) ∧
    (∀ x, equals p x x = true) ∧ (∀ x y, equals p x y = equals p y x) ∧
    (∀ x y z, equals p x y = true → equals p y z = true → equals p x z = true) ∧
    (∀ x y : Context, Memory.wf x.buffer → Memory.wf y.buffer → Memory.inRange p.capacity x.buffer →
      Memory.inRange p.capacity y.buffer → (equals p x y = true ↔ x = y))

/-- 42_context_ops.md R87: EQUALS implies EQUALS_LOGICAL, and not conversely. -/
def Obligations.LogicalEqualityIsWeaker : Prop :=
  (∀ x y : Context, equalsLogical x y = true ↔
    x.flags = y.flags ∧ x.declaredLength = y.declaredLength ∧ x.accumulatedLength = y.accumulatedLength ∧
    ∀ i, i < x.accumulatedLength.toNat → bufRead x.buffer i = bufRead y.buffer i) ∧
  (∀ (p : Params) (x y : Context), Memory.inRange p.capacity x.buffer → Memory.inRange p.capacity y.buffer →
    equals p x y = true → equalsLogical x y = true) ∧
  equals (Params.ofCapacity 64 0) ⟨0b011, 2, 1, [(0, 0x41)]⟩ ⟨0b011, 2, 1, [(0, 0x41), (2, 0xFF)]⟩ = false ∧
  equalsLogical ⟨0b011, 2, 1, [(0, 0x41)]⟩ ⟨0b011, 2, 1, [(0, 0x41), (2, 0xFF)]⟩ = true

/-- 20_memory.md R50: what an instruction does to the registers and `EV` does not depend on the buffer. -/
def Obligations.DispatchNeverReadsTheBuffer : Prop :=
  ∀ (i : Instr) (s : State) (m : Memory), ∃ t u,
    exec i s = .next t ∧ exec i (s.setBuffer m) = .next u ∧ t.ctx.flags = u.ctx.flags ∧
    t.ctx.declaredLength = u.ctx.declaredLength ∧ t.ctx.accumulatedLength = u.ctx.accumulatedLength ∧ t.ev = u.ev

/-- 10_state.md R14: no operation's outcome depends on Stopped. -/
def Obligations.OutcomeDoesNotDependOnStopped : Prop :=
  ∀ (i : Instr) (s : State), ∃ t u,
    exec i s = .next t ∧ exec i (s.setFlags (s.ctx.flags ^^^ 0b100)) = .next u ∧
    started t.ctx.flags = started u.ctx.flags ∧ lengthKnown t.ctx.flags = lengthKnown u.ctx.flags ∧
    t.ctx.declaredLength = u.ctx.declaredLength ∧ t.ctx.accumulatedLength = u.ctx.accumulatedLength ∧
    t.ctx.buffer = u.ctx.buffer ∧ t.ev = u.ev

/-- 70_reset_and_hazards.md R123: what a length of 2, 3 or 16 after START does. -/
def Obligations.UnrepresentableLengths : Prop :=
  ∀ s : State, s.ctx.flags = 0b001 →
    (∃ t, exec (decodeByte 2) s = .next t ∧ inState .awaitingLength t.ctx.flags = true ∧ t.ev = .none ∧
      ∀ b : Byte, isDataValue b = true → exec (decodeByte b) t = exec (.length b) t) ∧
    exec (decodeByte 3) s = .next { s with ev := .err .notReady } ∧
    (∃ t, exec (decodeByte 16) s = .next t ∧ inState .idle t.ctx.flags = true ∧ t.ev = .none ∧
      ∀ (bytes : List Byte) (rest : List Symbol), (∀ b ∈ bytes, isDataValue b = true) →
        events bytes.length { t with input := bytes.map Symbol.ofByte ++ rest } =
          List.replicate bytes.length (.err .missingStart))
end

