-- ==== Sys2Proof/Laws/Decode.lean ====
section
/-! SUPPORT. What the decoder answers, for each byte class and each combination of the control lines. -/

namespace Sys2Proof

/-- Decoding a byte gives a well-formed instruction. -/
theorem decodeByte_wellFormed (b : Byte) : WellFormed (decodeByte b) = true := by revert b; decide

theorem decodeByte_start : decodeByte 0x02 = .start := rfl
theorem decodeByte_stop : decodeByte 0x03 = .stop := rfl
theorem decodeByte_esc : decodeByte 0x10 = .esc := rfl

/-- A data byte is one of the ten DATA rows, with the byte as its operand. -/
theorem decodeByte_data {b : Byte} (h : isDataValue b = true) :
    decodeByte b = .data0 b ∨ decodeByte b = .data1 b ∨ decodeByte b = .data2 b ∨ decodeByte b = .data3 b ∨
    decodeByte b = .data4 b ∨ decodeByte b = .data5 b ∨ decodeByte b = .data6 b ∨ decodeByte b = .data7 b ∨
    decodeByte b = .data8 b ∨ decodeByte b = .data9 b := by revert b; decide

/-- The data values (30_encoding.md R55). -/
theorem isDataValue_iff (b : Byte) : isDataValue b = true ↔ b ≠ 0x02 ∧ b ≠ 0x03 ∧ b ≠ 0x10 := by revert b; decide

/-- A byte is a data byte or one of the three control bytes (30_encoding.md R55). -/
theorem byte_class (b : Byte) : b = 0x02 ∨ b = 0x10 ∨ b = 0x03 ∨ isDataValue b = true := by revert b; decide

/-- Which lines each CTRL row covers (30_encoding.md R54). -/
theorem ctrl_covers (r c v : Bool) :
    let l : BitVec 3 := BitVec.ofBool r ++ BitVec.ofBool c ++ BitVec.ofBool v
    patHwreset.covers l = r ∧ patReset.covers l = (!r && c) ∧ patByte.covers l = (!r && !c && v) ∧
      patIdle.covers l = (!r && !c && !v) := by
  revert r c v; decide

/-- A byte is accepted iff neither reset line is high and `in_valid` is (R53). -/
theorem isByte_eq (x : Symbol) : x.isByte = (!x.rst && !x.ctxReset && x.inValid) :=
  (ctrl_covers x.rst x.ctxReset x.inValid).2.2.1

/-- The operation of an edge, by the priority of 30_encoding.md R60. -/
theorem decodeSymbol_eq (x : Symbol) :
    decodeSymbol x =
      if x.rst then .hwreset else if x.ctxReset then .reset else if x.inValid then decodeByte x.inByte else .idle := by
  obtain ⟨h1, h2, h3, -⟩ := ctrl_covers x.rst x.ctxReset x.inValid
  unfold decodeSymbol decodeCtrl
  rw [isByte_eq, show patHwreset.covers x.lines = _ from h1, show patReset.covers x.lines = _ from h2,
    show patByte.covers x.lines = _ from h3]
  cases x.rst <;> cases x.ctxReset <;> cases x.inValid <;> rfl

@[simp] theorem isByte_ofByte (b : Byte) : (Symbol.ofByte b).isByte = true := by simp [isByte_eq, Symbol.ofByte]
@[simp] theorem inByte_ofByte (b : Byte) : (Symbol.ofByte b).inByte = b := rfl

/-- With its mode, a data byte is its DATA_MODE row (R57). -/
theorem decodeInMode_data (m : BitVec 2) {b : Byte} (h : isDataValue b = true) :
    decodeInMode m (Symbol.ofByte b) = decodeMode m b := by
  simp [decodeInMode, h]

@[simp] theorem decodeSymbol_ofByte (b : Byte) : decodeSymbol (Symbol.ofByte b) = decodeByte b := by
  simp [decodeSymbol_eq, Symbol.ofByte]

@[simp] theorem decodeSymbol_nothing : decodeSymbol Symbol.nothing = .idle := by
  simp [decodeSymbol_eq, Symbol.nothing]

end Sys2Proof

namespace Sys2Proof.Machine

/-- A data byte's row is run by the dispatch of 41_data_bytes.md R77. -/
theorem exec_decodeByte_data {b : Byte} (h : isDataValue b = true) (s : State) :
    exec (decodeByte b) s = dataDispatch b s := by
  rcases decodeByte_data h with h | h | h | h | h | h | h | h | h | h <;> rw [h] <;> rfl

/-- BYTE runs the byte's row (42_context_ops.md R88). -/
theorem execByte_eq (b : Byte) (s : State) : execByte b s = exec (decodeByte b) s := by
  rcases byte_class b with rfl | rfl | rfl | h
  · rfl
  · rfl
  · rfl
  · rw [exec_decodeByte_data h]
    have h2 : b ≠ 0x02 := by rintro rfl; exact absurd h (by decide)
    have h10 : b ≠ 0x10 := by rintro rfl; exact absurd h (by decide)
    have h3 : b ≠ 0x03 := by rintro rfl; exact absurd h (by decide)
    rw [execByte, if_neg h2, if_neg h10, if_neg h3]

end Sys2Proof.Machine
end

