-- ==== Sys2Proof/Laws/Flags.lean ====
section
/-! SUPPORT. What each flag write does to each flag bit, and which bits name which protocol state. -/

namespace Sys2Proof.Machine

variable (f : BitVec 3)

@[simp] theorem started_noFlags : started noFlags = false := rfl
@[simp] theorem lengthKnown_noFlags : lengthKnown noFlags = false := rfl
@[simp] theorem stopped_noFlags : stopped noFlags = false := rfl
@[simp] theorem started_startedOnly : started startedOnly = true := rfl
@[simp] theorem lengthKnown_startedOnly : lengthKnown startedOnly = false := rfl
@[simp] theorem stopped_startedOnly : stopped startedOnly = false := rfl

@[simp] theorem started_setLengthKnown : started (setLengthKnown f) = started f := by revert f; decide
@[simp] theorem lengthKnown_setLengthKnown : lengthKnown (setLengthKnown f) = true := by revert f; decide
@[simp] theorem stopped_setLengthKnown : stopped (setLengthKnown f) = stopped f := by revert f; decide
@[simp] theorem started_setStopped : started (setStopped f) = started f := by revert f; decide
@[simp] theorem lengthKnown_setStopped : lengthKnown (setStopped f) = lengthKnown f := by revert f; decide
@[simp] theorem stopped_setStopped : stopped (setStopped f) = true := by revert f; decide

/-- Setting Stopped twice is setting it once. -/
theorem setStopped_of_stopped (h : stopped f = true) : setStopped f = f := by revert f; decide

/-- Equal flag bits are equal `flags`. -/
theorem flags_ext {f g : BitVec 3} (h0 : started f = started g) (h1 : lengthKnown f = lengthKnown g)
    (h2 : stopped f = stopped g) : f = g := by revert f g; decide

end Sys2Proof.Machine
end

