-- ==== Sys2Proof/Laws/Memory.lean ====
section
/-! SUPPORT. The laws of the buffer as a list in canonical form: read after write, the canonical form is kept, and equal
reads mean equal lists. -/

namespace Sys2Proof.Machine

@[simp] theorem bufRead_nil (i : Nat) : bufRead [] i = 0x00 := rfl

/-- A slot below every listed index reads as unlisted. -/
theorem bufRead_below {m : Memory} {i : Nat} (h : ∀ c ∈ m, i < c.1) : bufRead m i = unlistedByte := by
  induction m with
  | nil => rfl
  | cons c t ih =>
    have hc := h c (by simp)
    simp only [bufRead, if_neg (show ¬ c.1 = i by omega)]
    exact ih fun c' hc' => h c' (by simp [hc'])

/-- Read after write, at the slot written and at every other. -/
theorem bufRead_bufWrite {m : Memory} (hm : Memory.wf m) (i : Nat) (v : Byte) (j : Nat) :
    bufRead (bufWrite m i v) j = if j = i then v else bufRead m j := by
  induction m with
  | nil =>
    by_cases hv : v = unlistedByte
    · simp only [bufWrite, if_pos hv, bufRead]
      split_ifs <;> simp [hv]
    · simp only [bufWrite, if_neg hv, bufRead, eq_comm (a := i)]
  | cons c t ih =>
    obtain ⟨k, x⟩ := c
    obtain ⟨hp, hz⟩ := hm
    have hk : ∀ c ∈ t, k < c.1 := (List.pairwise_cons.1 hp).1
    have ht : Memory.wf t := ⟨(List.pairwise_cons.1 hp).2, fun c hc => hz c (by simp [hc])⟩
    have hbelow : i ≤ k → bufRead t i = unlistedByte := fun h =>
      bufRead_below fun c hc => by have := hk c hc; omega
    rcases lt_trichotomy i k with h | h | h
    · by_cases hv : v = unlistedByte <;> by_cases hj : j = i
      · subst hj; simp [bufWrite, bufRead, h, hv, show ¬ k = j by omega, hbelow h.le]
      · simp [bufWrite, h, hv, hj]
      · subst hj; simp [bufWrite, bufRead, h, hv]
      · simp [bufWrite, bufRead, h, hv, hj, Ne.symm hj]
    · subst h
      by_cases hv : v = unlistedByte <;> by_cases hj : j = i
      · subst hj; simp [bufWrite, hv, hbelow le_rfl]
      · simp [bufWrite, bufRead, hv, hj, Ne.symm hj]
      · subst hj; simp [bufWrite, bufRead, hv]
      · simp [bufWrite, bufRead, hv, hj, Ne.symm hj]
    · rw [bufWrite, if_neg (by omega), if_neg (by omega), bufRead, bufRead, ih ht]
      by_cases hj : j = i
      · subst hj; simp [show ¬ k = j by omega]
      · simp [hj]

/-- A write lists no slot but those listed before and the one written. -/
theorem bufWrite_index {m : Memory} {i : Nat} {v : Byte} {c : Host.Cell} (h : c ∈ bufWrite m i v) :
    c.1 = i ∨ c ∈ m := by
  induction m with
  | nil =>
    unfold bufWrite at h
    split_ifs at h <;> simp_all
  | cons d t ih =>
    obtain ⟨k, x⟩ := d
    unfold bufWrite at h
    split_ifs at h <;> simp_all
    · rcases h with rfl | h <;> simp_all
    · rcases h with rfl | h <;> simp_all
    · rcases h with rfl | h
      · simp
      · rcases ih h with h | h <;> simp [h]

/-- A write keeps the canonical form. -/
theorem bufWrite_wf {m : Memory} (hm : Memory.wf m) (i : Nat) (v : Byte) : Memory.wf (bufWrite m i v) := by
  induction m with
  | nil =>
    unfold bufWrite
    split_ifs with h <;> simp [Memory.wf, h]
  | cons c t ih =>
    obtain ⟨k, x⟩ := c
    obtain ⟨hp, hz⟩ := hm
    have hk : ∀ c ∈ t, k < c.1 := (List.pairwise_cons.1 hp).1
    have ht : Memory.wf t := ⟨(List.pairwise_cons.1 hp).2, fun c hc => hz c (by simp [hc])⟩
    have hx : x ≠ unlistedByte := hz (k, x) (by simp)
    unfold bufWrite
    split_ifs with h1 h2 h3 h4
    · exact ⟨hp, hz⟩
    · refine ⟨List.pairwise_cons.2 ⟨fun c hc => ?_, hp⟩, fun c hc => ?_⟩
      · rcases List.mem_cons.1 hc with rfl | hc
        · exact h1
        · have := hk c hc; show i < c.1; omega
      · rcases List.mem_cons.1 hc with rfl | hc
        · exact h2
        · exact hz c hc
    · exact ht
    · refine ⟨List.pairwise_cons.2 ⟨fun c hc => ?_, ht.1⟩, fun c hc => ?_⟩
      · have := hk c hc; show i < c.1; omega
      · rcases List.mem_cons.1 hc with rfl | hc
        · exact h4
        · exact ht.2 c hc
    · refine ⟨List.pairwise_cons.2 ⟨fun c hc => ?_, (ih ht).1⟩, fun c hc => ?_⟩
      · rcases bufWrite_index hc with h | h
        · show k < c.1; omega
        · exact hk c h
      · rcases List.mem_cons.1 hc with rfl | hc
        · exact hx
        · exact (ih ht).2 c hc

/-- A write at an existing slot lists existing slots alone. -/
theorem bufWrite_inRange {m : Memory} {n i : Nat} {v : Byte} (hm : Memory.inRange n m) (hi : i < n) :
    Memory.inRange n (bufWrite m i v) := fun c hc => by
  rcases bufWrite_index hc with h | h
  · omega
  · exact hm c h

/-- A slot at or above the capacity reads as unlisted. -/
theorem bufRead_outOfRange {m : Memory} {n i : Nat} (hm : Memory.inRange n m) (hi : n ≤ i) :
    bufRead m i = unlistedByte := by
  induction m with
  | nil => rfl
  | cons c t ih =>
    have hc : c.1 < n := hm c (by simp)
    simp only [bufRead, if_neg (show ¬ c.1 = i by omega)]
    exact ih fun c' hc' => hm c' (by simp [hc'])

/-- Two buffers in canonical form that read alike at every slot are equal lists. -/
theorem Memory.ext {m n : Memory} (hm : Memory.wf m) (hn : Memory.wf n) (h : ∀ i, bufRead m i = bufRead n i) :
    m = n := by
  induction m generalizing n with
  | nil =>
    cases n with
    | nil => rfl
    | cons c t =>
      have := h c.1
      exact absurd (by simpa [bufRead] using this.symm) (hn.2 c (by simp))
  | cons c t ih =>
    cases n with
    | nil =>
      have := h c.1
      exact absurd (by simpa [bufRead] using this) (hm.2 c (by simp))
    | cons d u =>
      obtain ⟨k, x⟩ := c
      obtain ⟨l, y⟩ := d
      have hk : ∀ c ∈ t, k < c.1 := (List.pairwise_cons.1 hm.1).1
      have hl : ∀ c ∈ u, l < c.1 := (List.pairwise_cons.1 hn.1).1
      have hx : x ≠ unlistedByte := hm.2 (k, x) (by simp)
      have hy : y ≠ unlistedByte := hn.2 (l, y) (by simp)
      have htb : ∀ i, i ≤ k → bufRead t i = unlistedByte := fun i hi =>
        bufRead_below fun c hc => by have := hk c hc; omega
      have hub : ∀ i, i ≤ l → bufRead u i = unlistedByte := fun i hi =>
        bufRead_below fun c hc => by have := hl c hc; omega
      have hkl : k = l := by
        rcases lt_trichotomy k l with hlt | heq | hgt
        · have := h k
          simp [bufRead, show ¬ l = k by omega, hub k (by omega)] at this
          exact absurd this hx
        · exact heq
        · have := h l
          simp [bufRead, show ¬ k = l by omega, htb l (by omega)] at this
          exact absurd this.symm hy
      subst hkl
      have hxy : x = y := by simpa [bufRead] using h k
      subst hxy
      have htu : t = u := ih ⟨(List.pairwise_cons.1 hm.1).2, fun c hc => hm.2 c (by simp [hc])⟩
        ⟨(List.pairwise_cons.1 hn.1).2, fun c hc => hn.2 c (by simp [hc])⟩ fun i => by
          rcases le_or_gt i k with hi | hi
          · rw [htb i hi, hub i hi]
          · simpa [bufRead, show ¬ k = i by omega] using h i
      rw [htu]

/-- Writing what a slot already holds changes nothing. -/
theorem bufWrite_same {m : Memory} (hm : Memory.wf m) (i : Nat) : bufWrite m i (bufRead m i) = m :=
  Memory.ext (bufWrite_wf hm _ _) hm fun j => by
    rw [bufRead_bufWrite hm]
    split_ifs with h
    · rw [h]
    · rfl

end Sys2Proof.Machine
end

