-- ==== Sys2Proof/Laws/State.lean ====
section
/-! SUPPORT. One lemma per field per update of State, so that no proof unfolds a record update. -/

namespace Sys2Proof.Machine

variable (s : State)

@[simp] theorem State.setFlags_flags (f : BitVec 3) : (s.setFlags f).ctx.flags = f := rfl
@[simp] theorem State.setFlags_declaredLength (f : BitVec 3) : (s.setFlags f).ctx.declaredLength = s.ctx.declaredLength := rfl
@[simp] theorem State.setFlags_accumulatedLength (f : BitVec 3) : (s.setFlags f).ctx.accumulatedLength = s.ctx.accumulatedLength := rfl
@[simp] theorem State.setFlags_buffer (f : BitVec 3) : (s.setFlags f).ctx.buffer = s.ctx.buffer := rfl
@[simp] theorem State.setFlags_ev (f : BitVec 3) : (s.setFlags f).ev = s.ev := rfl
@[simp] theorem State.setFlags_params (f : BitVec 3) : (s.setFlags f).params = s.params := rfl
@[simp] theorem State.setFlags_input (f : BitVec 3) : (s.setFlags f).input = s.input := rfl

@[simp] theorem State.setDeclared_flags (d : Byte) : (s.setDeclared d).ctx.flags = s.ctx.flags := rfl
@[simp] theorem State.setDeclared_declaredLength (d : Byte) : (s.setDeclared d).ctx.declaredLength = d := rfl
@[simp] theorem State.setDeclared_accumulatedLength (d : Byte) : (s.setDeclared d).ctx.accumulatedLength = s.ctx.accumulatedLength := rfl
@[simp] theorem State.setDeclared_buffer (d : Byte) : (s.setDeclared d).ctx.buffer = s.ctx.buffer := rfl
@[simp] theorem State.setDeclared_ev (d : Byte) : (s.setDeclared d).ev = s.ev := rfl
@[simp] theorem State.setDeclared_params (d : Byte) : (s.setDeclared d).params = s.params := rfl
@[simp] theorem State.setDeclared_input (d : Byte) : (s.setDeclared d).input = s.input := rfl

@[simp] theorem State.setAccumulated_flags (a : Byte) : (s.setAccumulated a).ctx.flags = s.ctx.flags := rfl
@[simp] theorem State.setAccumulated_declaredLength (a : Byte) : (s.setAccumulated a).ctx.declaredLength = s.ctx.declaredLength := rfl
@[simp] theorem State.setAccumulated_accumulatedLength (a : Byte) : (s.setAccumulated a).ctx.accumulatedLength = a := rfl
@[simp] theorem State.setAccumulated_buffer (a : Byte) : (s.setAccumulated a).ctx.buffer = s.ctx.buffer := rfl
@[simp] theorem State.setAccumulated_ev (a : Byte) : (s.setAccumulated a).ev = s.ev := rfl
@[simp] theorem State.setAccumulated_params (a : Byte) : (s.setAccumulated a).params = s.params := rfl
@[simp] theorem State.setAccumulated_input (a : Byte) : (s.setAccumulated a).input = s.input := rfl

@[simp] theorem State.setBuffer_flags (m : Memory) : (s.setBuffer m).ctx.flags = s.ctx.flags := rfl
@[simp] theorem State.setBuffer_declaredLength (m : Memory) : (s.setBuffer m).ctx.declaredLength = s.ctx.declaredLength := rfl
@[simp] theorem State.setBuffer_accumulatedLength (m : Memory) : (s.setBuffer m).ctx.accumulatedLength = s.ctx.accumulatedLength := rfl
@[simp] theorem State.setBuffer_buffer (m : Memory) : (s.setBuffer m).ctx.buffer = m := rfl
@[simp] theorem State.setBuffer_ev (m : Memory) : (s.setBuffer m).ev = s.ev := rfl
@[simp] theorem State.setBuffer_params (m : Memory) : (s.setBuffer m).params = s.params := rfl
@[simp] theorem State.setBuffer_input (m : Memory) : (s.setBuffer m).input = s.input := rfl

@[simp] theorem State.setEv_flags (e : Event) : (s.setEv e).ctx.flags = s.ctx.flags := rfl
@[simp] theorem State.setEv_declaredLength (e : Event) : (s.setEv e).ctx.declaredLength = s.ctx.declaredLength := rfl
@[simp] theorem State.setEv_accumulatedLength (e : Event) : (s.setEv e).ctx.accumulatedLength = s.ctx.accumulatedLength := rfl
@[simp] theorem State.setEv_buffer (e : Event) : (s.setEv e).ctx.buffer = s.ctx.buffer := rfl
@[simp] theorem State.setEv_ev (e : Event) : (s.setEv e).ev = e := rfl
@[simp] theorem State.setEv_params (e : Event) : (s.setEv e).params = s.params := rfl
@[simp] theorem State.setEv_input (e : Event) : (s.setEv e).input = s.input := rfl
@[simp] theorem State.setEv_ctx (e : Event) : (s.setEv e).ctx = s.ctx := rfl

@[simp] theorem State.setInput_flags (l : List Symbol) : (s.setInput l).ctx.flags = s.ctx.flags := rfl
@[simp] theorem State.setInput_declaredLength (l : List Symbol) : (s.setInput l).ctx.declaredLength = s.ctx.declaredLength := rfl
@[simp] theorem State.setInput_accumulatedLength (l : List Symbol) : (s.setInput l).ctx.accumulatedLength = s.ctx.accumulatedLength := rfl
@[simp] theorem State.setInput_buffer (l : List Symbol) : (s.setInput l).ctx.buffer = s.ctx.buffer := rfl
@[simp] theorem State.setInput_ev (l : List Symbol) : (s.setInput l).ev = s.ev := rfl
@[simp] theorem State.setInput_params (l : List Symbol) : (s.setInput l).params = s.params := rfl
@[simp] theorem State.setInput_input (l : List Symbol) : (s.setInput l).input = l := rfl
@[simp] theorem State.setInput_ctx (l : List Symbol) : (s.setInput l).ctx = s.ctx := rfl

@[simp] theorem State.setCtx_ctx (c : Context) : (s.setCtx c).ctx = c := rfl
@[simp] theorem State.setCtx_ev (c : Context) : (s.setCtx c).ev = s.ev := rfl
@[simp] theorem State.setCtx_params (c : Context) : (s.setCtx c).params = s.params := rfl
@[simp] theorem State.setCtx_input (c : Context) : (s.setCtx c).input = s.input := rfl

@[simp] theorem State.resetWith_ctx (p : Params) : (State.resetWith p).ctx = Context.default := rfl
@[simp] theorem State.resetWith_ev (p : Params) : (State.resetWith p).ev = .none := rfl
@[simp] theorem State.resetWith_params (p : Params) : (State.resetWith p).params = p := rfl
@[simp] theorem State.resetWith_input (p : Params) : (State.resetWith p).input = [] := rfl

/-! `resetCtx` and `advance`. -/

@[simp] theorem resetCtx_ctx : (resetCtx s).ctx = Context.default := rfl
@[simp] theorem resetCtx_ev : (resetCtx s).ev = s.ev := rfl
@[simp] theorem resetCtx_params : (resetCtx s).params = s.params := rfl
@[simp] theorem resetCtx_input : (resetCtx s).input = s.input := rfl
@[simp] theorem advance_ctx : (advance s).ctx = s.ctx := rfl
@[simp] theorem advance_ev : (advance s).ev = s.ev := rfl
@[simp] theorem advance_params : (advance s).params = s.params := rfl
@[simp] theorem advance_input : (advance s).input = s.input.tail := rfl

end Sys2Proof.Machine
end

