-- ==== Sys2Proof/Laws/Ops.lean ====
section
/-! SUPPORT. One lemma per shared operation and per meaning: all it can answer. No instruction faults. -/

namespace Sys2Proof.Machine

/-! The operations. -/

@[simp] theorem andThen_next (s : State) (f : State → Result) : andThen (.next s) f = f s := rfl

/-- A write at an existing slot (20_memory.md R38, R39). -/
theorem memWrite_next {i : Nat} {s : State} (v : Byte) (h : i < s.params.capacity) :
    memWrite i v s = .next (s.setBuffer (bufWrite s.ctx.buffer i v)) := if_pos h

/-- If a write answers a next state, its slot exists and that slot alone is written. -/
theorem memWrite_cases {i : Nat} {v : Byte} {s t : State} (h : memWrite i v s = .next t) :
    i < s.params.capacity ∧ t = s.setBuffer (bufWrite s.ctx.buffer i v) := by
  unfold memWrite at h
  split_ifs at h with hi
  exact ⟨hi, by simpa using h.symm⟩

/-- A length up to `C − 2` is the index of a slot. -/
theorem index_lt_capacity {p : Params} {a : Byte} (h : aboveLmax p a = false) : a.toNat < p.capacity := by
  simp only [aboveLmax, decide_eq_false_iff_not, BitVec.not_lt, BitVec.le_def] at h
  unfold Params.capacity
  omega

@[simp] theorem aboveLmax_false {p : Params} {v : Byte} : aboveLmax p v = false ↔ v ≤ p.lmax := by
  simp [aboveLmax]

@[simp] theorem aboveLmax_true {p : Params} {v : Byte} : aboveLmax p v = true ↔ p.lmax < v := by
  simp [aboveLmax]

@[simp] theorem frameFull_iff {s : State} : frameFull s = true ↔ s.ctx.accumulatedLength = s.ctx.declaredLength := by
  simp [frameFull]

@[simp] theorem frameFull_false {s : State} :
    frameFull s = false ↔ s.ctx.accumulatedLength ≠ s.ctx.declaredLength := by
  simp [frameFull]

@[simp] theorem roomInBuffer_iff {s : State} : roomInBuffer s = true ↔ s.ctx.accumulatedLength < s.params.lmax := by
  simp [roomInBuffer]

@[simp] theorem roomInFrame_iff {s : State} :
    roomInFrame s = true ↔ s.ctx.accumulatedLength < s.ctx.declaredLength := by
  simp [roomInFrame]

/-! The states that the accepting meanings go to. -/

/-- After ESC, RESET and HWRESET. -/
def afterClear (s : State) : State := (resetCtx s).setEv .none

/-- After START. -/
def afterStart (s : State) : State := ((resetCtx s).setFlags startedOnly).setEv .none

/-- After an accepted LENGTH byte. -/
def afterLength (b : Byte) (s : State) : State :=
  ((s.setDeclared b).setFlags (setLengthKnown s.ctx.flags)).setEv .none

/-- After an accepted PAYLOAD byte. -/
def afterPayload (b : Byte) (s : State) : State :=
  ((s.setBuffer (bufWrite s.ctx.buffer (storeIndex s) b)).setAccumulated (s.ctx.accumulatedLength + 1)).setEv .none

/-- After a successful STOP. -/
def afterStop (s : State) : State :=
  ((s.setFlags (setStopped s.ctx.flags)).setBuffer (bufWrite s.ctx.buffer (storeIndex s) s.params.term)).setEv .done

/-! The meanings. -/

@[simp] theorem execStart_eq (s : State) : execStart s = .next (afterStart s) := rfl
@[simp] theorem execEsc_eq (s : State) : execEsc s = .next (afterClear s) := rfl
@[simp] theorem execReset_eq (s : State) : execReset s = .next (afterClear s) := rfl
@[simp] theorem execHwreset_eq (s : State) : execHwreset s = .next (afterClear s) := rfl
@[simp] theorem execIdle_eq (s : State) : execIdle s = .next (s.setEv .none) := rfl
@[simp] theorem execStray_eq (b : Byte) (s : State) : execStray b s = .next (s.setEv (.err .missingStart)) := rfl

/-- All that STOP can answer (R73). -/
theorem execStop_eq (s : State) :
    execStop s = .next (
      if started s.ctx.flags = false then s.setEv (.err .missingStart)
      else if lengthKnown s.ctx.flags = false then s.setEv (.err .notReady)
      else if frameFull s = false then s.setEv (.err .lengthMismatch)
      else if aboveLmax s.params s.ctx.accumulatedLength then s.setEv (.err .bufferOverflow)
      else afterStop s) := by
  unfold execStop
  split_ifs with h1 h2 h3 h4
  · rfl
  · rfl
  · rfl
  · rfl
  · have hi : storeIndex s < (s.setFlags (setStopped s.ctx.flags)).params.capacity :=
      index_lt_capacity (by simpa using h4)
    rw [memWrite_next _ hi]
    rfl

/-- All that LENGTH can answer (R78). -/
theorem execLength_eq (b : Byte) (s : State) :
    execLength b s = .next (if aboveLmax s.params b then s.setEv (.err .bufferOverflow) else afterLength b s) := by
  unfold execLength lengthOperand
  split_ifs <;> rfl

/-- All that PAYLOAD can answer (R79). -/
theorem execPayload_eq (b : Byte) (s : State) :
    execPayload b s = .next (
      if roomInBuffer s = true ∧ roomInFrame s = true then afterPayload b s else s.setEv (.err .bufferOverflow)) := by
  unfold execPayload
  by_cases h1 : roomInBuffer s = true
  · by_cases h2 : roomInFrame s = true
    · have hi : storeIndex s < s.params.capacity := by
        have := roomInBuffer_iff.1 h1
        rw [BitVec.lt_def] at this
        unfold storeIndex Params.capacity
        omega
      simp only [h1, h2, memWrite_next _ hi]
      rfl
    · simp [h1, h2, raiseErr]
  · simp [h1, raiseErr]

/-- All that a data byte can answer (R77). -/
theorem dataDispatch_eq (b : Byte) (s : State) :
    dataDispatch b s = .next (
      if started s.ctx.flags = false then s.setEv (.err .missingStart)
      else if lengthKnown s.ctx.flags = false then
        (if aboveLmax s.params b then s.setEv (.err .bufferOverflow) else afterLength b s)
      else
        (if roomInBuffer s = true ∧ roomInFrame s = true then afterPayload b s
         else s.setEv (.err .bufferOverflow))) := by
  unfold dataDispatch
  split_ifs <;> simp_all [execLength_eq, execPayload_eq]

end Sys2Proof.Machine
end

