-- ==== Sys2Proof/Laws/PerInstr.lean ====
section
/-! SUPPORT. The family RoundTrip, one lemma per constructor of Instr: the decoder reads the encoder's word back. -/

namespace Sys2Proof.Laws.RoundTrip

/-- Decoding the word of the well-formed instruction `i` gives `i`. -/
def Statement (i : Instr) : Prop := WellFormed i = true → decode (encode i) = .ok i

theorem start : Statement .start := fun _ => rfl
theorem stop : Statement .stop := fun _ => rfl
theorem esc : Statement .esc := fun _ => rfl
theorem data0 (b : Byte) : Statement (.data0 b) := by unfold Statement; revert b; decide
theorem data1 (b : Byte) : Statement (.data1 b) := by unfold Statement; revert b; decide
theorem data2 (b : Byte) : Statement (.data2 b) := by unfold Statement; revert b; decide
theorem data3 (b : Byte) : Statement (.data3 b) := by unfold Statement; revert b; decide
theorem data4 (b : Byte) : Statement (.data4 b) := by unfold Statement; revert b; decide
theorem data5 (b : Byte) : Statement (.data5 b) := by unfold Statement; revert b; decide
theorem data6 (b : Byte) : Statement (.data6 b) := by unfold Statement; revert b; decide
theorem data7 (b : Byte) : Statement (.data7 b) := by unfold Statement; revert b; decide
theorem data8 (b : Byte) : Statement (.data8 b) := by unfold Statement; revert b; decide
theorem data9 (b : Byte) : Statement (.data9 b) := by unfold Statement; revert b; decide
theorem hwreset : Statement .hwreset := fun _ => rfl
theorem reset : Statement .reset := fun _ => rfl
theorem idle : Statement .idle := fun _ => rfl
theorem byte (b : Byte) : Statement (.byte b) := fun _ => rfl
theorem stray (b : Byte) : Statement (.stray b) := fun h => if_pos h
theorem length (b : Byte) : Statement (.length b) := fun h => if_pos h
theorem payload (b : Byte) : Statement (.payload b) := fun h => if_pos h

end Sys2Proof.Laws.RoundTrip
end

