-- ==== Sys2Proof/Laws/Step.lean ====
section
/-! SUPPORT. All a step can do, said once: every step answers a next state, by one of seven moves. -/

namespace Sys2Proof.Machine

/-! One step from the head of the list, and runs unfolded by one step. -/

theorem step_cons {s : State} {x : Symbol} {rest : List Symbol} (h : s.input = x :: rest) :
    step s = exec (decodeSymbol x) (s.setInput rest) := by
  simp [step, fetch, advance, h]

theorem run_succ {k : Nat} {s t : State} (h : step s = .next t) : Safety.run (k + 1) s = Safety.run k t := by
  have h' : Sys2Proof.core.step s = .next t := h
  simp only [Safety.run, Host.Core.run, h']
  rfl

theorem events_succ {k : Nat} {s t : State} (h : step s = .next t) :
    Safety.events (k + 1) s = t.ev :: Safety.events k t := by
  simp only [Safety.events, h]

theorem operations_succ {k : Nat} {s t : State} (h : step s = .next t) :
    Safety.operations (k + 1) s =
      decodeInMode (modeBits s.ctx.flags) (fetch s) :: Safety.operations k t := by
  simp only [Safety.operations, h]

/-- A DATA row with byte `b` is the dispatch of R77, whatever `b`. -/
theorem exec_dataRow {i : Instr} {b : Byte} (h : Safety.IsDataRow i b) (s : State) : exec i s = dataDispatch b s := by
  simp only [Safety.IsDataRow, List.mem_cons, List.not_mem_nil, or_false] at h
  rcases h with h | h | h | h | h | h | h | h | h | h <;> rw [h] <;> rfl

/-- The moves of one clock edge, each with all that holds when it is made. -/
inductive Move (s : State) : State → Prop where
  /-- ESC, RESET, HWRESET. -/
  | clear : Move s (afterClear s)
  /-- START. -/
  | start : Move s (afterStart s)
  /-- IDLE. -/
  | idle : Move s (s.setEv .none)
  /-- A byte that raises. -/
  | raise (k : ErrKind) (hk : k ≠ .invalidContext) : Move s (s.setEv (.err k))
  /-- An accepted LENGTH byte. -/
  | length (b : Byte) (hb : isDataValue b = true) (hs : started s.ctx.flags = true)
      (hk : lengthKnown s.ctx.flags = false) (hl : b ≤ s.params.lmax) : Move s (afterLength b s)
  /-- An accepted PAYLOAD byte. -/
  | payload (b : Byte) (hb : isDataValue b = true) (hs : started s.ctx.flags = true)
      (hk : lengthKnown s.ctx.flags = true) (hc : s.ctx.accumulatedLength < s.params.lmax)
      (hd : s.ctx.accumulatedLength < s.ctx.declaredLength) : Move s (afterPayload b s)
  /-- A successful STOP. -/
  | stop (hs : started s.ctx.flags = true) (hk : lengthKnown s.ctx.flags = true)
      (hd : s.ctx.accumulatedLength = s.ctx.declaredLength) (hc : s.ctx.accumulatedLength ≤ s.params.lmax) :
      Move s (afterStop s)

/-- What an accepted byte does, whatever the state. -/
theorem exec_decodeByte_move (b : Byte) (s : State) : ∃ t, exec (decodeByte b) s = .next t ∧ Move s t := by
  rcases byte_class b with rfl | rfl | rfl | h
  · exact ⟨_, rfl, .start⟩
  · exact ⟨_, rfl, .clear⟩
  · refine ⟨_, execStop_eq s, ?_⟩
    split_ifs with h1 h2 h3 h4
    · exact .raise _ (by decide)
    · exact .raise _ (by decide)
    · exact .raise _ (by decide)
    · exact .raise _ (by decide)
    · exact .stop (by simpa using h1) (by simpa using h2) (by simpa using h3) (by simpa using h4)
  · rw [exec_decodeByte_data h]
    refine ⟨_, dataDispatch_eq b s, ?_⟩
    split_ifs with h1 h2 h3 h4
    · exact .raise _ (by decide)
    · exact .raise _ (by decide)
    · exact .length b h (by simpa using h1) (by simpa using h2) (by simpa using h3)
    · exact .payload b h (by simpa using h1) (by simpa using h2) (by simpa using h4.1) (by simpa using h4.2)
    · exact .raise _ (by decide)

/-- Every step answers a next state, by a move from the state whose first symbol is taken off. -/
theorem step_move (s : State) : ∃ t, step s = .next t ∧ Move (advance s) t := by
  unfold step
  rw [decodeSymbol_eq]
  split_ifs
  · exact ⟨_, rfl, .clear⟩
  · exact ⟨_, rfl, .clear⟩
  · exact exec_decodeByte_move _ _
  · exact ⟨_, rfl, .idle⟩

/-- If a step answers a next state, it made a move. -/
theorem move_of_step {s t : State} (h : step s = .next t) : Move (advance s) t := by
  obtain ⟨u, hu, hm⟩ := step_move s
  rw [hu] at h
  cases h
  exact hm

/-- No move touches the parameters or the symbols that wait. -/
theorem Move.keeps {s t : State} (h : Move s t) : t.params = s.params ∧ t.input = s.input := by
  cases h <;> exact ⟨rfl, rfl⟩

end Sys2Proof.Machine
end

