-- ==== Sys2Proof/Tests/Slice0.lean ====
section
/-! SUPPORT. Tests. Expected results are read or worked out from spec/: "V<n>" and "S<n>" are the vectors of
95_test_vectors.md, "by R<n>" is a hand calculation from that rule. Last, a witness for the hypotheses of every statement
that has some. -/

namespace Sys2Proof.Tests

open Sys2Proof.Machine Sys2Proof.Safety

/-! Well-formedness: a byte of a neighbouring row is refused. -/

theorem test_data0_refuses : WellFormed (.data0 0x02) = false := by decide
theorem test_data1_refuses : WellFormed (.data1 0x03) = false ∧ WellFormed (.data1 0x08) = false := by decide
theorem test_data2_refuses : WellFormed (.data2 0x07) = false ∧ WellFormed (.data2 0x10) = false := by decide
theorem test_data3_refuses : WellFormed (.data3 0x10) = false ∧ WellFormed (.data3 0x12) = false := by decide
theorem test_data4_refuses : WellFormed (.data4 0x11) = false ∧ WellFormed (.data4 0x14) = false := by decide
theorem test_data5_refuses : WellFormed (.data5 0x13) = false ∧ WellFormed (.data5 0x18) = false := by decide
theorem test_data6_refuses : WellFormed (.data6 0x17) = false ∧ WellFormed (.data6 0x20) = false := by decide
theorem test_data7_refuses : WellFormed (.data7 0x1F) = false ∧ WellFormed (.data7 0x40) = false := by decide
theorem test_data8_refuses : WellFormed (.data8 0x3F) = false ∧ WellFormed (.data8 0x80) = false := by decide
theorem test_data9_refuses : WellFormed (.data9 0x7F) = false := by decide
theorem test_stray_refuses : WellFormed (.stray 0x02) = false := by decide
theorem test_length_refuses : WellFormed (.length 0x10) = false := by decide
theorem test_payload_refuses : WellFormed (.payload 0x03) = false := by decide

/-! Decoding: a word of each row, bit by bit from R54, R55 and R57, the ends of each row's values. -/

theorem test_decode_control_bytes :
    decode (.byte 0b00000010) = .ok .start ∧ decode (.byte 0b00000011) = .ok .stop ∧
    decode (.byte 0b00010000) = .ok .esc := by decide

theorem test_decode_data_bytes_low :
    decode (.byte 0b00000000) = .ok (.data0 0x00) ∧ decode (.byte 0b00000001) = .ok (.data0 0x01) ∧
    decode (.byte 0b00000100) = .ok (.data1 0x04) ∧ decode (.byte 0b00000111) = .ok (.data1 0x07) ∧
    decode (.byte 0b00001000) = .ok (.data2 0x08) ∧ decode (.byte 0b00001111) = .ok (.data2 0x0F) ∧
    decode (.byte 0b00010001) = .ok (.data3 0x11) := by decide

theorem test_decode_data_bytes_high :
    decode (.byte 0b00010010) = .ok (.data4 0x12) ∧ decode (.byte 0b00010011) = .ok (.data4 0x13) ∧
    decode (.byte 0b00010100) = .ok (.data5 0x14) ∧ decode (.byte 0b00011000) = .ok (.data6 0x18) ∧
    decode (.byte 0b00011111) = .ok (.data6 0x1F) ∧ decode (.byte 0b00100000) = .ok (.data7 0x20) ∧
    decode (.byte 0b00111111) = .ok (.data7 0x3F) ∧ decode (.byte 0b01000000) = .ok (.data8 0x40) ∧
    decode (.byte 0b10000000) = .ok (.data9 0x80) ∧ decode (.byte 0b11111111) = .ok (.data9 0xFF) := by decide

theorem test_decode_control_lines :
    decode (.ctrl 0b100 0x41) = .ok .hwreset ∧ decode (.ctrl 0b111 0x41) = .ok .hwreset ∧
    decode (.ctrl 0b010 0x41) = .ok .reset ∧ decode (.ctrl 0b011 0x41) = .ok .reset ∧
    decode (.ctrl 0b000 0x41) = .ok .idle ∧ decode (.ctrl 0b001 0x02) = .ok (.byte 0x02) := by decide

theorem test_decode_modes :
    decode (.dataMode 0b00 0x41) = .ok (.stray 0x41) ∧ decode (.dataMode 0b10 0x41) = .ok (.stray 0x41) ∧
    decode (.dataMode 0b01 0x41) = .ok (.length 0x41) ∧ decode (.dataMode 0b11 0x41) = .ok (.payload 0x41) ∧
    decode (.dataMode 0b01 0x02) = .error (.notDataClass 0x02) := by decide

theorem test_table_words :
    decodeTableWord 8 0x10 = some .esc ∧ decodeTableWord 3 0b100 = some .hwreset ∧
    decodeTableWord 2 0b11 = some (.payload 0x00) ∧ decodeTableWord 5 0 = none := by decide

/-! States and results. -/

/-- The state with a context, `C = lmax + 2`, `TERM = 0xFF`, and an error before. -/
def st (lmax : Byte) (c : Context) (input : List Symbol := []) : State := ⟨c, .err .notReady, ⟨lmax, 0xFF⟩, input⟩

/-- The context and the event of a next state. -/
def see : Result → Option (Context × Event)
  | .next s    => some (s.ctx, s.ev)
  | .fault _   => none
  | .refused _ => none

/-- Contexts of the protocol states: Idle, AwaitingLength, AccumulatingPayload before and after the last byte, FrameComplete. -/
def idleCtx : Context := ⟨0b000, 0, 0, []⟩
def awaitCtx : Context := ⟨0b001, 0, 0, []⟩
def partCtx : Context := ⟨0b011, 4, 1, [(0, 0x41)]⟩
def fullCtx : Context := ⟨0b011, 1, 1, [(0, 0x41)]⟩
def doneCtx : Context := ⟨0b111, 1, 1, [(0, 0x41), (1, 0xFF)]⟩
/-- Lengths above `C − 2` for `C = 64`, which no run reaches (V21). -/
def overCtx : Context := ⟨0b011, 63, 63, []⟩

/-! One step of each instruction. -/

/-- V1: START discards a completed frame, the whole buffer with it. -/
theorem test_start : see (exec .start (st 62 doneCtx)) = some (awaitCtx, .none) := by decide
/-- V2. -/
theorem test_esc : see (exec .esc (st 62 partCtx)) = some (idleCtx, .none) := by decide
/-- V22, first part: the terminator 0xFF at `buffer[1]`. -/
theorem test_stop_done : see (exec .stop (st 62 fullCtx)) = some (doneCtx, .done) := by decide
/-- V21: the fourth check. -/
theorem test_stop_over : see (exec .stop (st 62 overCtx)) = some (overCtx, .err .bufferOverflow) := by decide
/-- V5: a zero length. -/
theorem test_data0_length : see (exec (.data0 0x00) (st 62 awaitCtx)) = some (⟨0b011, 0, 0, []⟩, .none) := by decide
/-- V10: a payload byte 0x00. -/
theorem test_data0_payload :
    see (exec (.data0 0x00) (st 62 ⟨0b011, 1, 0, []⟩)) = some (⟨0b011, 1, 1, []⟩, .none) := by decide
/-- S1, step 2. -/
theorem test_data1 : see (exec (.data1 0x04) (st 62 awaitCtx)) = some (⟨0b011, 4, 0, []⟩, .none) := by decide
/-- V4. -/
theorem test_data2 : see (exec (.data2 0x0A) (st 62 idleCtx)) = some (idleCtx, .err .missingStart) := by decide
/-- By R78: 0x11 is 17. -/
theorem test_data3 : see (exec (.data3 0x11) (st 62 awaitCtx)) = some (⟨0b011, 17, 0, []⟩, .none) := by decide
/-- By R79: a byte below one that is held. -/
theorem test_data4 :
    see (exec (.data4 0x13) (st 62 partCtx)) = some (⟨0b011, 4, 2, [(0, 0x41), (1, 0x13)]⟩, .none) := by decide
/-- By R79, for `C = 2`: no room in the buffer. -/
theorem test_data5 : see (exec (.data5 0x14) (st 0 ⟨0b011, 4, 0, []⟩)) =
    some (⟨0b011, 4, 0, []⟩, .err .bufferOverflow) := by decide
/-- By R78, for `C = 32`: 0x1F is above 30. -/
theorem test_data6 : see (exec (.data6 0x1F) (st 30 awaitCtx)) = some (awaitCtx, .err .bufferOverflow) := by decide
/-- V8: the largest length. -/
theorem test_data7_accepted : see (exec (.data7 0x3E) (st 62 awaitCtx)) = some (⟨0b011, 62, 0, []⟩, .none) := by decide
/-- V9a: the smallest length that is rejected. -/
theorem test_data7_rejected : see (exec (.data7 0x3F) (st 62 awaitCtx)) = some (awaitCtx, .err .bufferOverflow) := by decide
/-- V12, step 4: a surplus byte. -/
theorem test_data8_surplus : see (exec (.data8 0x42) (st 62 fullCtx)) = some (fullCtx, .err .bufferOverflow) := by decide
/-- V21: Started set in an unreachable flag value. -/
theorem test_data8_mode : see (exec (.data8 0x41) (st 62 ⟨0b110, 0, 0, []⟩)) =
    some (⟨0b110, 0, 0, []⟩, .err .missingStart) := by decide
/-- V18: `C = 257`. -/
theorem test_data9_length : see (exec (.data9 0xFF) (st 255 awaitCtx)) = some (⟨0b011, 255, 0, []⟩, .none) := by decide
/-- V10. -/
theorem test_data9_payload : see (exec (.data9 0xFF) (st 62 ⟨0b011, 1, 0, []⟩)) =
    some (⟨0b011, 1, 1, [(0, 0xFF)]⟩, .none) := by decide
/-- V19, edge 11: `rst` beside a reset request and a byte. -/
theorem test_hwreset : see (step (st 6 doneCtx [⟨true, true, true, 0x02⟩])) = some (idleCtx, .none) := by decide
/-- V19, edge 9: the byte 0x02 is lost. -/
theorem test_reset : see (step (st 6 doneCtx [⟨false, true, true, 0x02⟩])) = some (idleCtx, .none) := by decide
/-- R85, the example. -/
theorem test_idle : see (step (st 62 partCtx [⟨false, false, false, 0x02⟩])) = some (partCtx, .none) := by decide
/-- M1. -/
theorem test_byte_stop : see (exec (.byte 0x03) (st 62 idleCtx)) = some (idleCtx, .err .missingStart) := by decide
/-- V3: STOP in AwaitingLength, through a step. -/
theorem test_byte_step : see (step (st 62 awaitCtx [Symbol.ofByte 0x03])) = some (awaitCtx, .err .notReady) := by decide
/-- V4. -/
theorem test_stray : see (exec (.stray 0xFF) (st 62 idleCtx)) = some (idleCtx, .err .missingStart) := by decide
/-- V9c, V9d: `C = 8`. -/
theorem test_length :
    see (exec (.length 0x06) (st 6 awaitCtx)) = some (⟨0b011, 6, 0, []⟩, .none) ∧
    see (exec (.length 0x07) (st 6 awaitCtx)) = some (awaitCtx, .err .bufferOverflow) := by decide
/-- V10. -/
theorem test_payload :
    see (exec (.payload 0x3A) (st 62 ⟨0b011, 4, 3, [(0, 0x47), (1, 0x45), (2, 0x54)]⟩)) =
      some (⟨0b011, 4, 4, [(0, 0x47), (1, 0x45), (2, 0x54), (3, 0x3A)]⟩, .none) := by decide

/-! The buffer, the ports, the comparisons, the placing of a word. -/

/-- By R37: writing what an unlisted slot holds removes the entry. -/
theorem test_write_clears : bufWrite [(0, 0x41), (3, 0x42)] 0 0x00 = [(3, 0x42)] := by decide
/-- By R18 and R93. -/
theorem test_event_bits :
    Event.bits .done = 0b1000 ∧ Event.bits (.err .lengthMismatch) = 0b0011 ∧ Event.bits .none = 0 := by decide
/-- By R5: the default 64 slots need 6 bits, `C = 2` one, `C = 257` nine. -/
theorem test_addr_width :
    (Params.ofCapacity 64 0).addrWidth = 6 ∧ (Params.ofCapacity 2 0).addrWidth = 1 ∧
    (Params.ofCapacity 257 0).addrWidth = 9 ∧ (Params.ofCapacity 257 0).capacity = 257 := by decide
/-- V20, rows 3 and 6. -/
theorem test_equals :
    equals (Params.ofCapacity 8 0) fullCtx ⟨0b011, 1, 1, [(0, 0x42)]⟩ = false ∧
    equals (Params.ofCapacity 8 0) ⟨0b111, 1, 1, [(0, 0x41)]⟩ doneCtx = false ∧
    equalsLogical ⟨0b111, 1, 1, [(0, 0x41)]⟩ doneCtx = true := by decide
/-- R71, R84, R79: a word of each group as the first symbol after reset. -/
theorem test_first_word :
    see (step (State.reset.withFetchWord 8 0x02)) = some (awaitCtx, .none) ∧
    see (step (State.reset.withFetchWord 3 0b010)) = some (idleCtx, .none) ∧
    see (step (State.reset.withFetchWord 2 0b11)) = some (⟨0b011, 0, 0, []⟩, .err .bufferOverflow) := by decide

/-! Witnesses: the invariants hold in a state of each protocol state. -/

/-- The invariants do not speak of the symbols that wait. -/
theorem inv_input {s : State} (h : Inv s) (input : List Symbol) : Inv (s.setInput input) :=
  ⟨h.len, h.cap, h.flags, h.stop, h.fresh, h.tail, h.values, h.buffer⟩

theorem read_nil (i : Nat) : bufRead [] i = 0x00 := rfl

theorem inv_idle (input : List Symbol) : Inv (st 62 idleCtx input) :=
  inv_input (s := st 62 idleCtx) ⟨fun h => absurd h (by decide), ⟨by decide, by decide⟩, .inl rfl, fun h => absurd h (by decide),
    fun _ => ⟨rfl, rfl, read_nil⟩, ⟨fun _ i _ => read_nil i, fun h => absurd h (by decide)⟩,
    ⟨fun i h => absurd h (Nat.not_lt_zero i), fun h => absurd h (by decide)⟩, ⟨by decide, by decide⟩⟩ input

theorem inv_await (input : List Symbol) : Inv (st 62 awaitCtx input) :=
  inv_input (s := st 62 awaitCtx) ⟨fun h => absurd h (by decide), ⟨by decide, by decide⟩, .inr (.inl rfl), fun h => absurd h (by decide),
    fun _ => ⟨rfl, rfl, read_nil⟩, ⟨fun _ i _ => read_nil i, fun h => absurd h (by decide)⟩,
    ⟨fun i h => absurd h (Nat.not_lt_zero i), fun h => absurd h (by decide)⟩, ⟨by decide, by decide⟩⟩ input

/-- What the partial frames read as from slot 1 on. -/
theorem read_one (i : Nat) (h : 1 ≤ i) : bufRead [(0, 0x41)] i = 0x00 := if_neg (by omega)

/-- What the completed frame reads as from slot 2 on. -/
theorem read_two (i : Nat) (h : 1 < i) : bufRead [(0, 0x41), (1, 0xFF)] i = 0x00 :=
  (if_neg (by omega)).trans (if_neg (by omega))

/-- The one payload byte is a data byte. -/
theorem data_below_one (m : Memory) (h : bufRead m 0 = 0x41) (i : Nat) (hi : i < 1) : isDataValue (bufRead m i) = true := by
  obtain rfl : i = 0 := by omega
  rw [h]
  decide

theorem inv_part (input : List Symbol) : Inv (st 62 partCtx input) :=
  inv_input (s := st 62 partCtx) ⟨fun _ => by decide, ⟨by decide, by decide⟩, .inr (.inr (.inl rfl)), fun h => absurd h (by decide),
    fun h => absurd h (by decide), ⟨fun _ i h => read_one i h, fun h => absurd h (by decide)⟩,
    ⟨data_below_one _ rfl, fun _ => by decide⟩, ⟨by decide, by decide⟩⟩ input

theorem inv_full (input : List Symbol) : Inv (st 62 fullCtx input) :=
  inv_input (s := st 62 fullCtx) ⟨fun _ => by decide, ⟨by decide, by decide⟩, .inr (.inr (.inl rfl)), fun h => absurd h (by decide),
    fun h => absurd h (by decide), ⟨fun _ i h => read_one i h, fun h => absurd h (by decide)⟩,
    ⟨data_below_one _ rfl, fun _ => by decide⟩, ⟨by decide, by decide⟩⟩ input

theorem inv_done (input : List Symbol) : Inv (st 62 doneCtx input) :=
  inv_input (s := st 62 doneCtx) ⟨fun _ => by decide, ⟨by decide, by decide⟩, .inr (.inr (.inr rfl)), fun _ => ⟨rfl, rfl⟩,
    fun h => absurd h (by decide), ⟨fun h => absurd h (by decide), fun _ => ⟨rfl, read_two⟩⟩,
    ⟨data_below_one _ rfl, fun _ => by decide⟩, ⟨by decide, by decide⟩⟩ input

/-! Witnesses: the hypotheses of each statement, clause by clause. -/

theorem witness_DecodeOfEncodeIsIdentity :
    WellFormed (.data2 0x0F) = true ∧ WellFormed (.data9 0xFF) = true ∧ WellFormed (.length 0x00) = true := by decide

theorem witness_EncodeOfDecodeIsCanonicalWord :
    decode (.ctrl 0b111 0x41) = .ok .hwreset ∧ decode (.ctrl 0b100 0x00) = .ok .hwreset ∧
    InstrWord.ctrl 0b111 0x41 ≠ .ctrl 0b100 0x00 := by decide

theorem witness_EveryByteHasOneClass : IsDataRow (decodeByte 0xFF) 0xFF ∧ IsDataRow (decodeByte 0x01) 0x01 := by
  unfold IsDataRow; decide

theorem witness_ControlValuesAreNeverData :
    (0x01 : Byte) ≠ 0x02 ∧ (0x11 : Byte) ≠ 0x10 ∧ decodeInMode 0b01 (Symbol.ofByte 0x01) = .length 0x01 ∧
    decodeInMode 0b00 (Symbol.ofByte 0x11) = .stray 0x11 ∧ decodeInMode 0b11 (Symbol.ofByte 0xFF) = .payload 0xFF := by
  decide

theorem witness_StepRunsTheDecodedSymbol :
    (st 62 partCtx [Symbol.ofByte 0x42, Symbol.nothing]).input = Symbol.ofByte 0x42 :: [Symbol.nothing] ∧
    (st 62 partCtx).input = [] := by decide

theorem witness_StepRunsTheSecondLevelDecode :
    (st 62 partCtx [Symbol.ofByte 0x42]).input = Symbol.ofByte 0x42 :: [] ∧
    isDataValue 0x42 = true ∧ started idleCtx.flags = false ∧ started awaitCtx.flags = true ∧
    lengthKnown awaitCtx.flags = false ∧ started partCtx.flags = true ∧ lengthKnown partCtx.flags = true ∧
    isDataValue 0x03 = false := by decide

theorem witness_OneOperationPerEdge :
    (st 62 partCtx [⟨true, true, true, 0x02⟩]).input = ⟨true, true, true, 0x02⟩ :: [] ∧
    (st 62 partCtx [⟨false, true, true, 0x02⟩]).input = ⟨false, true, true, 0x02⟩ :: [] ∧
    (st 62 partCtx [⟨false, false, true, 0x02⟩]).input = ⟨false, false, true, 0x02⟩ :: [] ∧
    (st 62 partCtx [⟨false, false, false, 0x02⟩]).input = ⟨false, false, false, 0x02⟩ :: [] ∧
    (st 62 idleCtx [Symbol.ofByte 0x02, Symbol.ofByte 0x00, Symbol.nothing]).input =
      [0x02, 0x00].map Symbol.ofByte ++ [Symbol.nothing] := by decide

theorem witness_ByteIsIgnoredWhenNotValid :
    (⟨true, false, true, 0x41⟩ : Symbol).rst = true ∧ (⟨false, true, true, 0x41⟩ : Symbol).ctxReset = true ∧
    (⟨false, false, false, 0x41⟩ : Symbol).inValid = false := by decide

theorem witness_ClockMayBeDropped :
    (st 62 idleCtx [Symbol.ofByte 0x02, Symbol.nothing, ⟨false, true, false, 0x00⟩]).input =
      [Symbol.ofByte 0x02, Symbol.nothing] ++ [⟨false, true, false, 0x00⟩] := by decide

theorem witness_StartSynchronises :
    (st 62 doneCtx [Symbol.ofByte 0x02, Symbol.ofByte 0x41]).input = Symbol.ofByte 0x02 :: [Symbol.ofByte 0x41] := by decide

/-- The last slot of the smallest and of the largest buffer. -/
theorem witness_ResetStateIsDefault :
    1 < (Params.ofCapacity 2 0).capacity ∧ 256 < (Params.ofCapacity 257 0).capacity := by decide

theorem witness_HardwareResetGivesDefault :
    (st 62 doneCtx [⟨true, false, false, 0x00⟩, ⟨true, false, true, 0x02⟩]).input =
      [⟨true, false, false, 0x00⟩, ⟨true, false, true, 0x02⟩] ++ [] ∧
    ∀ x ∈ [(⟨true, false, false, 0x00⟩ : Symbol), ⟨true, false, true, 0x02⟩], x.rst = true := by decide

theorem witness_ContextResetGivesDefault :
    (⟨false, true, true, 0x02⟩ : Symbol).rst = false ∧ (⟨false, true, true, 0x02⟩ : Symbol).ctxReset = true ∧
    (st 62 idleCtx).ctx = Context.default ∧ see (exec .reset (st 62 doneCtx)) = some (idleCtx, .none) := by decide

theorem witness_IdleOnlyEndsTheEvent :
    (st 62 partCtx [Symbol.nothing, ⟨false, false, false, 0x02⟩]).input =
      [Symbol.nothing, ⟨false, false, false, 0x02⟩] ++ [] ∧
    ∀ x ∈ [Symbol.nothing, ⟨false, false, false, 0x02⟩], isIdle x = true := by decide

theorem witness_EscAborts : isDataValue 0x00 = true ∧ isDataValue 0x11 = true := by decide

/-- Each of the five cases of R73; the last at `accumulated_length = C − 2`. -/
theorem witness_StopOutcome :
    started idleCtx.flags = false ∧ (started awaitCtx.flags = true ∧ lengthKnown awaitCtx.flags = false) ∧
    (started partCtx.flags = true ∧ lengthKnown partCtx.flags = true ∧
      partCtx.accumulatedLength ≠ partCtx.declaredLength) ∧
    (started overCtx.flags = true ∧ lengthKnown overCtx.flags = true ∧
      overCtx.accumulatedLength = overCtx.declaredLength ∧ (st 62 overCtx).params.lmax < overCtx.accumulatedLength) ∧
    (Memory.wf fullCtx.buffer ∧ started fullCtx.flags = true ∧ lengthKnown fullCtx.flags = true ∧
      fullCtx.accumulatedLength = fullCtx.declaredLength ∧ fullCtx.accumulatedLength ≤ (st 1 fullCtx).params.lmax) := by
  decide

theorem witness_StopAgainSucceeds : Inv (st 62 doneCtx) ∧ stopped doneCtx.flags = true := ⟨inv_done [], by decide⟩

theorem witness_DataRowsDispatchByFlags :
    isDataValue 0x0F = true ∧ IsDataRow (.data2 0x0F) 0x0F ∧ started idleCtx.flags = false ∧
    (started awaitCtx.flags = true ∧ lengthKnown awaitCtx.flags = false) ∧
    (started partCtx.flags = true ∧ lengthKnown partCtx.flags = true) := by unfold IsDataRow; decide

theorem witness_LengthOutcome :
    (isDataValue 0x3E = true ∧ started awaitCtx.flags = true ∧ lengthKnown awaitCtx.flags = false) ∧
    (0x3E : Byte) ≤ (st 62 awaitCtx).params.lmax ∧ (st 62 awaitCtx).params.lmax < (0x3F : Byte) ∧
    (0xFF : Byte) ≤ (st 255 awaitCtx).params.lmax ∧ (st 0 awaitCtx).params.lmax < (0x01 : Byte) ∧
    awaitCtx.flags = 0b001 := by decide

/-- At the last slot of the frame and of the buffer, and just past each. -/
theorem witness_PayloadOutcome :
    (isDataValue 0x42 = true ∧ started partCtx.flags = true ∧ lengthKnown partCtx.flags = true) ∧
    (st 1 partCtx).params.lmax ≤ partCtx.accumulatedLength ∧ fullCtx.declaredLength ≤ fullCtx.accumulatedLength ∧
    (Memory.wf partCtx.buffer ∧ partCtx.accumulatedLength < (st 2 partCtx).params.lmax ∧
      partCtx.accumulatedLength < partCtx.declaredLength) := by decide

/-- `Inv` with `C − 2 ≤ accumulated_length`: the empty frame of `C = 2`, after its LENGTH. -/
theorem witness_PayloadOutcome_inv :
    Inv (st 0 ⟨0b011, 0, 0, []⟩) ∧ (st 0 ⟨0b011, 0, 0, []⟩).params.lmax ≤ (st 0 ⟨0b011, 0, 0, []⟩).ctx.accumulatedLength :=
  ⟨⟨fun _ => by decide, ⟨by decide, by decide⟩, .inr (.inr (.inl rfl)), fun h => absurd h (by decide),
    fun h => absurd h (by decide), ⟨fun _ i _ => read_nil i, fun h => absurd h (by decide)⟩,
    ⟨fun i h => absurd h (Nat.not_lt_zero i), fun _ => by decide⟩, ⟨by decide, by decide⟩⟩, by decide⟩

theorem witness_StrayOutcome :
    isDataValue 0xFF = true ∧ started idleCtx.flags = false ∧ (∀ b ∈ ([0x55, 0x0A] : List Byte), isDataValue b = true) ∧
    (st 62 idleCtx [Symbol.ofByte 0x55, Symbol.ofByte 0x0A]).input = ([0x55, 0x0A] : List Byte).map Symbol.ofByte ++ [] := by
  decide

theorem witness_DataRowsAndByteAccept :
    (isDataValue 0x3E = true ∧ IsDataRow (.data7 0x3E) 0x3E) ∧
    (started awaitCtx.flags = true ∧ lengthKnown awaitCtx.flags = false ∧ (0x3E : Byte) ≤ (st 62 awaitCtx).params.lmax) ∧
    (Memory.wf partCtx.buffer ∧ started partCtx.flags = true ∧ lengthKnown partCtx.flags = true ∧
      partCtx.accumulatedLength < (st 2 partCtx).params.lmax ∧ partCtx.accumulatedLength < partCtx.declaredLength) := by
  unfold IsDataRow; decide

theorem witness_ByteStepIsTheProcessTable : isDataValue 0x3E = true ∧ IsDataRow (.data7 0x3E) 0x3E := by
  unfold IsDataRow; decide

theorem witness_ErrorLeavesTheContext :
    exec (.payload 0x42) (st 62 fullCtx) = .next ((st 62 fullCtx).setEv (.err .bufferOverflow)) ∧
    exec .stop (st 62 awaitCtx) = .next ((st 62 awaitCtx).setEv (.err .notReady)) := ⟨rfl, rfl⟩

theorem witness_ErrorsByProtocolState :
    (Inv (st 62 idleCtx) ∧ inState .idle idleCtx.flags = true) ∧
    (Inv (st 62 awaitCtx) ∧ inState .awaitingLength awaitCtx.flags = true) ∧
    (Inv (st 62 partCtx) ∧ inState .accumulatingPayload partCtx.flags = true) ∧
    (Inv (st 62 fullCtx) ∧ inState .accumulatingPayload fullCtx.flags = true) ∧
    (Inv (st 62 doneCtx) ∧ inState .frameComplete doneCtx.flags = true) ∧
    exec .start (st 62 idleCtx) = .next (⟨awaitCtx, .none, ⟨62, 0xFF⟩, []⟩) ∧
    exec .stop (st 62 awaitCtx) = .next ((st 62 awaitCtx).setEv (.err .notReady)) ∧ isDataValue 0x42 = true ∧
    exec (decodeByte 0x42) (st 62 fullCtx) = .next ((st 62 fullCtx).setEv (.err .bufferOverflow)) :=
  ⟨⟨inv_idle [], by decide⟩, ⟨inv_await [], by decide⟩, ⟨inv_part [], by decide⟩, ⟨inv_full [], by decide⟩,
    ⟨inv_done [], by decide⟩, rfl, rfl, by decide, rfl⟩

theorem witness_MissingStartCause :
    exec (decodeByte 0x03) (st 62 idleCtx) = .next ((st 62 idleCtx).setEv (.err .missingStart)) := rfl

theorem witness_LengthMismatchCause :
    Inv (st 62 partCtx) ∧
    exec (decodeByte 0x03) (st 62 partCtx) = .next ((st 62 partCtx).setEv (.err .lengthMismatch)) := ⟨inv_part [], rfl⟩

theorem witness_BufferOverflowCause :
    exec (decodeByte 0x3F) (st 62 awaitCtx) = .next ((st 62 awaitCtx).setEv (.err .bufferOverflow)) ∧
    exec (decodeByte 0x42) (st 62 fullCtx) = .next ((st 62 fullCtx).setEv (.err .bufferOverflow)) ∧
    exec (decodeByte 0x03) (st 62 overCtx) = .next ((st 62 overCtx).setEv (.err .bufferOverflow)) := ⟨rfl, rfl, rfl⟩

theorem witness_NotReadyCause :
    exec (decodeByte 0x03) (st 62 awaitCtx) = .next ((st 62 awaitCtx).setEv (.err .notReady)) := rfl

theorem witness_InvalidContextIsNeverRaised :
    exec .reset (st 62 partCtx) = .next ⟨idleCtx, .none, ⟨62, 0xFF⟩, []⟩ := rfl

/-- A step to `Done`, and an idle step after it. -/
theorem witness_steps :
    step (st 62 fullCtx [Symbol.ofByte 0x03, Symbol.nothing]) = .next ⟨doneCtx, .done, ⟨62, 0xFF⟩, [Symbol.nothing]⟩ ∧
    step ⟨doneCtx, .done, ⟨62, 0xFF⟩, [Symbol.nothing]⟩ = .next ⟨doneCtx, .none, ⟨62, 0xFF⟩, []⟩ := ⟨rfl, rfl⟩

theorem witness_EventRegisterAfterAStep :
    (fetch (st 62 partCtx [Symbol.nothing])).isByte = false ∧
    step (st 62 partCtx [Symbol.nothing]) = .next ⟨partCtx, .none, ⟨62, 0xFF⟩, []⟩ := ⟨by decide, rfl⟩

theorem witness_DoneCause :
    step (st 62 fullCtx [Symbol.ofByte 0x03, Symbol.nothing]) = .next ⟨doneCtx, .done, ⟨62, 0xFF⟩, [Symbol.nothing]⟩ ∧
    (ports ⟨doneCtx, .done, ⟨62, 0xFF⟩, [Symbol.nothing]⟩).frameDone = true ∧
    (fetch ⟨doneCtx, .done, ⟨62, 0xFF⟩, [Symbol.nothing]⟩).isByte = false := ⟨rfl, rfl, by decide⟩

theorem witness_HandOffShowsTheFrame :
    Inv (st 62 fullCtx [Symbol.ofByte 0x03]) ∧
    step (st 62 fullCtx [Symbol.ofByte 0x03]) = .next ⟨doneCtx, .done, ⟨62, 0xFF⟩, []⟩ ∧
    (ports ⟨doneCtx, .done, ⟨62, 0xFF⟩, []⟩).frameDone = true := ⟨inv_full _, rfl, rfl⟩

/-- A frame of one byte, an idle edge between its bytes, from FrameComplete; the empty frame at `C = 2`. -/
theorem witness_FrameIsHandedOverExactlyOnce :
    (([0x42] : List Byte).length = (1 : Byte).toNat ∧ Representable ⟨62, 0xFF⟩ 1 [0x42] ∧
      ([Symbol.ofByte 0x02, Symbol.nothing, Symbol.ofByte 0x01, Symbol.ofByte 0x42].filter fun x => !isIdle x) =
        (0x02 :: 1 :: [0x42]).map Symbol.ofByte) ∧
    (([] : List Byte).length = (0 : Byte).toNat ∧ Representable ⟨0, 0xFF⟩ 0 [] ∧
      ([Symbol.ofByte 0x02, Symbol.ofByte 0x00].filter fun x => !isIdle x) = (0x02 :: 0 :: []).map Symbol.ofByte) := by
  unfold Representable; decide

/-- A representable frame, and two that are not (a length of 2, a payload byte 0x03). -/
theorem witness_ParsedAsAFrameIffRepresentable :
    (([0x42] : List Byte).length = (1 : Byte).toNat ∧ Representable ⟨62, 0xFF⟩ 1 [0x42] ∧
      (st 62 idleCtx ((wireFrame 1 [0x42]).map Symbol.ofByte)).input = (wireFrame 1 [0x42]).map Symbol.ofByte ++ []) ∧
    (([0x42, 0x43] : List Byte).length = (2 : Byte).toNat ∧ ¬ Representable ⟨62, 0xFF⟩ 2 [0x42, 0x43]) ∧
    (([0x03] : List Byte).length = (1 : Byte).toNat ∧ ¬ Representable ⟨62, 0xFF⟩ 1 [0x03]) := by
  unfold Representable; decide

theorem witness_StepKeepsInv :
    (Inv (st 62 idleCtx [Symbol.ofByte 0x02]) ∧
      step (st 62 idleCtx [Symbol.ofByte 0x02]) = .next ⟨awaitCtx, .none, ⟨62, 0xFF⟩, []⟩) ∧
    (Inv (st 62 fullCtx [Symbol.ofByte 0x03]) ∧
      step (st 62 fullCtx [Symbol.ofByte 0x03]) = .next ⟨doneCtx, .done, ⟨62, 0xFF⟩, []⟩) :=
  ⟨⟨inv_idle _, rfl⟩, inv_full _, rfl⟩

theorem witness_EveryInstructionKeepsTheBufferForm :
    InvBuffer (st 62 partCtx) ∧ exec (.payload 0x42) (st 62 partCtx) =
      .next ⟨⟨0b011, 4, 2, [(0, 0x41), (1, 0x42)]⟩, .none, ⟨62, 0xFF⟩, []⟩ := ⟨(inv_part []).buffer, rfl⟩

/-- Each flag being set, with `Inv` in the state before. -/
theorem witness_FlagsAreMonotonicWithinAFrame :
    (Inv (st 62 idleCtx [Symbol.ofByte 0x02]) ∧
      step (st 62 idleCtx [Symbol.ofByte 0x02]) = .next ⟨awaitCtx, .none, ⟨62, 0xFF⟩, []⟩) ∧
    (Inv (st 62 awaitCtx [Symbol.ofByte 0x00]) ∧ decodeSymbol (Symbol.ofByte 0x00) ∉ [.start, .esc, .reset, .hwreset] ∧
      step (st 62 awaitCtx [Symbol.ofByte 0x00]) = .next ⟨⟨0b011, 0, 0, []⟩, .none, ⟨62, 0xFF⟩, []⟩) ∧
    (Inv (st 62 fullCtx [Symbol.ofByte 0x03]) ∧
      step (st 62 fullCtx [Symbol.ofByte 0x03]) = .next ⟨doneCtx, .done, ⟨62, 0xFF⟩, []⟩) :=
  ⟨⟨inv_idle _, rfl⟩, ⟨inv_await _, by decide, rfl⟩, inv_full _, rfl⟩

theorem witness_CompletedFrameIsHeld :
    Inv (st 62 doneCtx [Symbol.ofByte 0x42]) ∧ stopped doneCtx.flags = true ∧
    step (st 62 doneCtx [Symbol.ofByte 0x42]) = .next ⟨doneCtx, .err .bufferOverflow, ⟨62, 0xFF⟩, []⟩ ∧
    decodeSymbol (fetch (st 62 doneCtx [Symbol.ofByte 0x42])) ∉ [.start, .esc, .reset, .hwreset] :=
  ⟨inv_done _, by decide, rfl, by decide⟩

/-- For `C = 3`: STOP writes slot 1, the last that can be written. START, and BYTE with 0x10, clear a byte that a state no
run reaches holds in slot 2. -/
theorem witness_LastSlotIsNeverWritten :
    (InvBuffer (st 1 fullCtx) ∧ Instr.stop ∉ [Instr.start, .esc, .reset, .hwreset, .byte 0x02, .byte 0x10] ∧
      exec .stop (st 1 fullCtx) = .next ⟨doneCtx, .done, ⟨1, 0xFF⟩, []⟩) ∧
    (InvBuffer (st 1 ⟨0b111, 1, 1, [(2, 0x42)]⟩) ∧ memRead 2 (st 1 ⟨0b111, 1, 1, [(2, 0x42)]⟩) = 0x42 ∧
      exec .start (st 1 ⟨0b111, 1, 1, [(2, 0x42)]⟩) = .next ⟨awaitCtx, .none, ⟨1, 0xFF⟩, []⟩ ∧
      exec (.byte 0x10) (st 1 ⟨0b111, 1, 1, [(2, 0x42)]⟩) = .next ⟨idleCtx, .none, ⟨1, 0xFF⟩, []⟩) :=
  ⟨⟨⟨by decide, by decide⟩, by decide, rfl⟩, ⟨by decide, by decide⟩, rfl, rfl, rfl⟩

theorem witness_AccumulatedLengthIsWrittenOnly :
    (step (st 62 partCtx [Symbol.ofByte 0x10]) = .next ⟨idleCtx, .none, ⟨62, 0xFF⟩, []⟩ ∧
      decodeSymbol (Symbol.ofByte 0x10) ∈ [.start, .esc, .reset, .hwreset]) ∧
    (step (st 62 partCtx [Symbol.ofByte 0x42]) =
        .next ⟨⟨0b011, 4, 2, [(0, 0x41), (1, 0x42)]⟩, .none, ⟨62, 0xFF⟩, []⟩ ∧
      decodeInMode (modeBits partCtx.flags) (Symbol.ofByte 0x42) = .payload 0x42 ∧ Memory.wf partCtx.buffer) ∧
    step (st 62 fullCtx [Symbol.ofByte 0x42]) = .next ⟨fullCtx, .err .bufferOverflow, ⟨62, 0xFF⟩, []⟩ ∧
    Inv (st 62 partCtx) := ⟨⟨rfl, by decide⟩, ⟨rfl, by decide, by decide⟩, rfl, inv_part []⟩

theorem witness_DeclaredLengthIsWrittenOnly :
    (step (st 62 awaitCtx [Symbol.ofByte 0x3E]) = .next ⟨⟨0b011, 0x3E, 0, []⟩, .none, ⟨62, 0xFF⟩, []⟩ ∧
      decodeInMode (modeBits awaitCtx.flags) (Symbol.ofByte 0x3E) = .length 0x3E ∧ lengthKnown awaitCtx.flags = false) ∧
    step (st 62 awaitCtx [Symbol.ofByte 0x3F]) = .next ⟨awaitCtx, .err .bufferOverflow, ⟨62, 0xFF⟩, []⟩ ∧
    step (st 62 partCtx [Symbol.ofByte 0x10]) = .next ⟨idleCtx, .none, ⟨62, 0xFF⟩, []⟩ ∧
    Inv (st 62 awaitCtx) := ⟨⟨rfl, by decide, by decide⟩, rfl, rfl, inv_await []⟩

theorem witness_NonStoringInstructionsFrame :
    exec .idle (st 62 partCtx) = .next ((st 62 partCtx).setEv .none) ∧
    exec (.length 0x04) (st 62 awaitCtx) = .next ⟨⟨0b011, 4, 0, []⟩, .none, ⟨62, 0xFF⟩, []⟩ ∧
    (IsDataRow (.data1 0x04) 0x04 ∧ lengthKnown awaitCtx.flags = false ∧
      exec (.data1 0x04) (st 62 awaitCtx) = .next ⟨⟨0b011, 4, 0, []⟩, .none, ⟨62, 0xFF⟩, []⟩) ∧
    (isDataValue 0x04 = true ∧ started idleCtx.flags = false ∧
      exec (.byte 0x04) (st 62 idleCtx) = .next ((st 62 idleCtx).setEv (.err .missingStart))) :=
  ⟨rfl, rfl, ⟨by unfold IsDataRow; decide, by decide, rfl⟩, by decide, by decide, rfl⟩

theorem witness_StoringInstructionsFrame :
    (InvBuffer (st 62 fullCtx) ∧ exec .stop (st 62 fullCtx) = .next ⟨doneCtx, .done, ⟨62, 0xFF⟩, []⟩ ∧
      storeIndex (st 62 fullCtx) = 1) ∧
    (InvBuffer (st 62 partCtx) ∧ IsDataRow (.data8 0x42) 0x42 ∧ started partCtx.flags = true ∧
      lengthKnown partCtx.flags = true ∧ exec (.data8 0x42) (st 62 partCtx) =
        .next ⟨⟨0b011, 4, 2, [(0, 0x41), (1, 0x42)]⟩, .none, ⟨62, 0xFF⟩, []⟩) :=
  ⟨⟨(inv_full []).buffer, rfl, rfl⟩, (inv_part []).buffer, by unfold IsDataRow; decide, by decide, by decide, rfl⟩

theorem witness_ResettingInstructionsFrame :
    exec .start (st 62 doneCtx) = .next ⟨awaitCtx, .none, ⟨62, 0xFF⟩, []⟩ ∧
    exec (.byte 0x10) (st 62 doneCtx) = .next ⟨idleCtx, .none, ⟨62, 0xFF⟩, []⟩ := ⟨rfl, rfl⟩

theorem witness_TransitionTable :
    Inv (st 62 idleCtx) ∧ Inv (st 62 awaitCtx) ∧ Inv (st 62 partCtx) ∧ Inv (st 62 fullCtx) ∧ Inv (st 62 doneCtx) ∧
    isDataValue 0x3E = true ∧ (0x3E : Byte) ≤ (st 62 awaitCtx).params.lmax ∧ (st 62 awaitCtx).params.lmax < (0x3F : Byte) ∧
    partCtx.accumulatedLength ≠ partCtx.declaredLength ∧ fullCtx.accumulatedLength = fullCtx.declaredLength :=
  ⟨inv_idle [], inv_await [], inv_part [], inv_full [], inv_done [], by decide, by decide, by decide, by decide, by decide⟩

/-- For `C = 3` the 2-bit index can name slots 0 to 2, and 3, which does not exist. -/
theorem witness_ReadPortReadsEverySlot :
    (st 1 idleCtx).params.addrWidth = 2 ∧
    (2 : BitVec (st 1 idleCtx).params.addrWidth).toNat ≤ (st 1 idleCtx).params.capacity - 1 ∧
    (st 1 idleCtx).params.capacity - 1 < (3 : BitVec (st 1 idleCtx).params.addrWidth).toNat ∧
    2 < (st 1 idleCtx).params.capacity := by decide

theorem witness_EqualsIsStrictEquality :
    equals ⟨62, 0⟩ partCtx partCtx = true ∧ Memory.wf partCtx.buffer ∧ Memory.inRange 64 partCtx.buffer := by decide

theorem witness_LogicalEqualityIsWeaker :
    Memory.inRange (⟨62, 0⟩ : Params).capacity partCtx.buffer ∧ equals ⟨62, 0⟩ partCtx partCtx = true := by decide

theorem witness_UnrepresentableLengths :
    (st 62 awaitCtx).ctx.flags = 0b001 ∧ isDataValue 0x42 = true ∧
    ∀ b ∈ ([0x41, 0x42] : List Byte), isDataValue b = true := by decide

end Sys2Proof.Tests
end

section
/-! The twenty rows have seven meanings. Each row is run as START, ESC, IDLE, STOP, STRAY, LENGTH or PAYLOAD, selected by
the row and the flags, and `Effect` says once what each of these seven does. -/

namespace Sys2Proof.Machine

open Safety

/-! The meaning of a row. -/

/-- The row of the seven that instruction `i` is run as while the flags are `f`. -/
def meaning (f : BitVec 3) : Instr → Instr
  | .start     => .start
  | .stop      => .stop
  | .esc       => .esc
  | .data0 b   => decodeMode (modeBits f) b
  | .data1 b   => decodeMode (modeBits f) b
  | .data2 b   => decodeMode (modeBits f) b
  | .data3 b   => decodeMode (modeBits f) b
  | .data4 b   => decodeMode (modeBits f) b
  | .data5 b   => decodeMode (modeBits f) b
  | .data6 b   => decodeMode (modeBits f) b
  | .data7 b   => decodeMode (modeBits f) b
  | .data8 b   => decodeMode (modeBits f) b
  | .data9 b   => decodeMode (modeBits f) b
  | .hwreset   => .esc
  | .reset     => .esc
  | .idle      => .idle
  | .byte b    => decodeInMode (modeBits f) (Symbol.ofByte b)
  | .stray b   => .stray b
  | .length b  => .length b
  | .payload b => .payload b

/-- The DATA_MODE row that the flags select (30_encoding.md R57). -/
theorem decodeMode_modeBits (f : BitVec 3) (b : Byte) :
    decodeMode (modeBits f) b =
      if started f = false then .stray b else if lengthKnown f = false then .length b else .payload b := by
  have hstray : patStray.covers (modeBits f) = !started f := by revert f; decide
  have hlength : patLength.covers (modeBits f) = (started f && !lengthKnown f) := by revert f; decide
  rw [decodeMode, hstray, hlength]
  cases started f <;> cases lengthKnown f <;> rfl

theorem decodeMode_of_not_started {f : BitVec 3} (b : Byte) (hs : started f = false) :
    decodeMode (modeBits f) b = .stray b := by
  rw [decodeMode_modeBits, if_pos hs]

theorem decodeMode_of_awaiting {f : BitVec 3} (b : Byte) (hs : started f = true) (hk : lengthKnown f = false) :
    decodeMode (modeBits f) b = .length b := by
  rw [decodeMode_modeBits, if_neg (by simp [hs]), if_pos hk]

theorem decodeMode_of_lengthKnown {f : BitVec 3} (b : Byte) (hs : started f = true) (hk : lengthKnown f = true) :
    decodeMode (modeBits f) b = .payload b := by
  rw [decodeMode_modeBits, if_neg (by simp [hs]), if_neg (by simp [hk])]

/-- LENGTH is selected while Started is set and LengthKnown clear. -/
theorem decodeMode_eq_length {f : BitVec 3} {b c : Byte} (h : decodeMode (modeBits f) b = .length c) :
    b = c ∧ started f = true ∧ lengthKnown f = false := by
  rw [decodeMode_modeBits] at h
  split_ifs at h with hs hk
  exact ⟨by simpa using h, by simpa using hs, hk⟩

/-- PAYLOAD is selected while Started and LengthKnown are set. -/
theorem decodeMode_eq_payload {f : BitVec 3} {b c : Byte} (h : decodeMode (modeBits f) b = .payload c) :
    b = c ∧ started f = true ∧ lengthKnown f = true := by
  rw [decodeMode_modeBits] at h
  split_ifs at h with hs hk
  exact ⟨by simpa using h, by simpa using hs, by simpa using hk⟩

theorem decodeMode_cases (m : BitVec 2) (b : Byte) :
    decodeMode m b = .stray b ∨ decodeMode m b = .length b ∨ decodeMode m b = .payload b := by
  unfold decodeMode
  split_ifs <;> simp

theorem exec_decodeMode (b : Byte) (s : State) :
    exec (decodeMode (modeBits s.ctx.flags) b) s = dataDispatch b s := by
  rw [decodeMode_modeBits, dataDispatch]
  split_ifs <;> rfl

/-- Where an instruction carries a data byte and leaves its role open (a DATA row, or BYTE), the flags select it. -/
theorem meaning_of_data {i : Instr} {b : Byte} (f : BitVec 3)
    (h : IsDataRow i b ∨ (i = .byte b ∧ isDataValue b = true)) : meaning f i = decodeMode (modeBits f) b := by
  rcases h with h | ⟨rfl, hb⟩
  · simp only [IsDataRow, List.mem_cons, List.not_mem_nil, or_false] at h
    rcases h with h | h | h | h | h | h | h | h | h | h <;> rw [h] <;> rfl
  · exact decodeInMode_data _ hb

/-- Every instruction is run as its meaning. -/
theorem exec_meaning (i : Instr) (s : State) : exec (meaning s.ctx.flags i) s = exec i s := by
  cases i with
  | byte b =>
    rcases byte_class b with rfl | rfl | rfl | hb
    · rfl
    · rfl
    · rfl
    · rw [meaning_of_data _ (.inr ⟨rfl, hb⟩), exec_decodeMode, ← exec_decodeByte_data hb, ← execByte_eq]
      rfl
  | data0 b | data1 b | data2 b | data3 b | data4 b | data5 b | data6 b | data7 b | data8 b | data9 b =>
    exact exec_decodeMode b s
  | _ => rfl

/-- The seven meanings. -/
theorem meaning_cases (f : BitVec 3) (i : Instr) :
    meaning f i = .start ∨ meaning f i = .esc ∨ meaning f i = .idle ∨ meaning f i = .stop ∨
      ∃ b, meaning f i = .stray b ∨ meaning f i = .length b ∨ meaning f i = .payload b := by
  cases i with
  | byte b =>
    rcases byte_class b with rfl | rfl | rfl | hb
    · exact .inl rfl
    · exact .inr (.inl rfl)
    · exact .inr (.inr (.inr (.inl rfl)))
    · rw [meaning_of_data f (.inr ⟨rfl, hb⟩)]
      exact .inr (.inr (.inr (.inr ⟨b, decodeMode_cases _ b⟩)))
  | data0 b | data1 b | data2 b | data3 b | data4 b | data5 b | data6 b | data7 b | data8 b | data9 b =>
    exact .inr (.inr (.inr (.inr ⟨b, decodeMode_cases _ b⟩)))
  | _ => simp [meaning]

/-- The instructions that reset the context are those run as START or ESC. -/
theorem mem_resetting_iff (f : BitVec 3) (i : Instr) :
    i ∈ [.start, .esc, .reset, .hwreset, .byte 0x02, .byte 0x10] ↔ meaning f i = .start ∨ meaning f i = .esc := by
  have hdata : ∀ b : Byte, ¬(decodeMode (modeBits f) b = .start ∨ decodeMode (modeBits f) b = .esc) := fun b => by
    rcases decodeMode_cases (modeBits f) b with h | h | h <;> simp [h]
  cases i with
  | byte b =>
    rcases byte_class b with rfl | rfl | rfl | hb
    · exact iff_of_true (by simp) (.inl rfl)
    · exact iff_of_true (by simp) (.inr rfl)
    · exact iff_of_false (by decide) (by rintro (h | h) <;> exact absurd h (by revert f; decide))
    · obtain ⟨h2, -, h10⟩ := (isDataValue_iff b).1 hb
      rw [meaning_of_data f (.inr ⟨rfl, hb⟩)]
      exact iff_of_false (by simpa using ⟨h2, h10⟩) (hdata b)
  | data0 b | data1 b | data2 b | data3 b | data4 b | data5 b | data6 b | data7 b | data8 b | data9 b =>
    exact iff_of_false (by simp) (hdata b)
  | _ => simp [meaning]

/-! The meaning of a symbol. -/

/-- A symbol carries an accepted data byte and is that byte's row, or its operation is one of the six others. -/
theorem decodeSymbol_cases (x : Symbol) :
    (x.isByte = true ∧ isDataValue x.inByte = true ∧ decodeSymbol x = decodeByte x.inByte) ∨
      ((x.isByte && isDataValue x.inByte) = false ∧
        decodeSymbol x ∈ [.start, .esc, .reset, .hwreset, .stop, .idle]) := by
  rw [decodeSymbol_eq, isByte_eq]
  cases x.rst <;> cases x.ctxReset <;> cases x.inValid
  case false.false.true =>
    rcases byte_class x.inByte with h | h | h | h
    · rw [h]; exact .inr (by decide)
    · rw [h]; exact .inr (by decide)
    · rw [h]; exact .inr (by decide)
    · exact .inl ⟨rfl, h, rfl⟩
  all_goals exact .inr ⟨rfl, by simp⟩

/-- With the mode, an accepted data byte is its DATA_MODE row, and any other symbol the operation it is without. -/
theorem decodeInMode_cases (f : BitVec 3) (x : Symbol) :
    (isDataValue x.inByte = true ∧ meaning f (decodeSymbol x) = decodeMode (modeBits f) x.inByte ∧
        decodeInMode (modeBits f) x = decodeMode (modeBits f) x.inByte) ∨
      (decodeSymbol x ∈ [.start, .esc, .reset, .hwreset, .stop, .idle] ∧
        decodeInMode (modeBits f) x = decodeSymbol x) := by
  rcases decodeSymbol_cases x with ⟨hx, hb, hd⟩ | ⟨hx, hd⟩
  · have hrow : IsDataRow (decodeByte x.inByte) x.inByte := by
      rcases decodeByte_data hb with h | h | h | h | h | h | h | h | h | h <;> simp [IsDataRow, h]
    refine .inl ⟨hb, ?_, by simp [decodeInMode, hx, hb]⟩
    rw [hd, meaning_of_data f (.inl hrow)]
  · exact .inr ⟨hd, by rw [decodeInMode, if_neg (by simp [hx])]⟩

/-- A symbol whose meaning is LENGTH is an accepted data byte, while Started is set and LengthKnown clear. -/
theorem meaning_decodeSymbol_length {f : BitVec 3} {x : Symbol} {b : Byte}
    (h : meaning f (decodeSymbol x) = .length b) :
    b = x.inByte ∧ decodeInMode (modeBits f) x = .length b ∧ started f = true ∧ lengthKnown f = false := by
  rcases decodeInMode_cases f x with ⟨-, hm, hmode⟩ | ⟨hd, -⟩
  · have hl := hm.symm.trans h
    obtain ⟨hb, hs, hk⟩ := decodeMode_eq_length hl
    exact ⟨hb.symm, hmode.trans hl, hs, hk⟩
  · simp only [List.mem_cons, List.not_mem_nil, or_false] at hd
    rcases hd with hd | hd | hd | hd | hd | hd <;> simp [hd, meaning] at h

/-- A symbol whose meaning is PAYLOAD is an accepted data byte, while Started and LengthKnown are set. -/
theorem meaning_decodeSymbol_payload {f : BitVec 3} {x : Symbol} {b : Byte}
    (h : meaning f (decodeSymbol x) = .payload b) :
    b = x.inByte ∧ decodeInMode (modeBits f) x = .payload b ∧ started f = true ∧ lengthKnown f = true := by
  rcases decodeInMode_cases f x with ⟨-, hm, hmode⟩ | ⟨hd, -⟩
  · have hp := hm.symm.trans h
    obtain ⟨hb, hs, hk⟩ := decodeMode_eq_payload hp
    exact ⟨hb.symm, hmode.trans hp, hs, hk⟩
  · simp only [List.mem_cons, List.not_mem_nil, or_false] at hd
    rcases hd with hd | hd | hd | hd | hd | hd <;> simp [hd, meaning] at h

/-- The second-level decode of a symbol has the meaning of its first-level decode (30_encoding.md R57). -/
theorem meaning_decodeInMode (f : BitVec 3) (x : Symbol) :
    meaning f (decodeInMode (modeBits f) x) = meaning f (decodeSymbol x) := by
  rcases decodeInMode_cases f x with ⟨-, hm, hmode⟩ | ⟨-, hd⟩
  · rw [hm, hmode]
    rcases decodeMode_cases (modeBits f) x.inByte with h | h | h <;> rw [h] <;> rfl
  · rw [hd]

/-- The symbols that reset the context are those whose meaning is START or ESC. -/
theorem decodeSymbol_mem_resetting_iff (f : BitVec 3) (x : Symbol) :
    decodeSymbol x ∈ [.start, .esc, .reset, .hwreset] ↔
      meaning f (decodeSymbol x) = .start ∨ meaning f (decodeSymbol x) = .esc := by
  have hbyte : ∀ b, decodeSymbol x ≠ .byte b := fun b => by
    rcases decodeSymbol_cases x with ⟨-, hb, hd⟩ | ⟨-, hd⟩ <;> intro h
    · rcases decodeByte_data hb with h' | h' | h' | h' | h' | h' | h' | h' | h' | h' <;> simp [hd, h'] at h
    · simp [h] at hd
  rw [← mem_resetting_iff]
  simp [hbyte]

/-! What the seven meanings do. -/

/-- The effect of each of the seven meanings, with what holds when it is the outcome. -/
inductive Effect (s : State) : Instr → State → Prop where
  | start : Effect s .start (afterStart s)
  | clear : Effect s .esc (afterClear s)
  | idle : Effect s .idle (s.setEv .none)
  /-- STOP, one of the checks of R73 failing. -/
  | stopRaises (k : ErrKind) (hk : k ≠ .invalidContext) : Effect s .stop (s.setEv (.err k))
  | stop (hs : started s.ctx.flags = true) (hk : lengthKnown s.ctx.flags = true)
      (hd : s.ctx.accumulatedLength = s.ctx.declaredLength) (hc : s.ctx.accumulatedLength ≤ s.params.lmax) :
      Effect s .stop (afterStop s)
  | stray (b : Byte) : Effect s (.stray b) (s.setEv (.err .missingStart))
  /-- LENGTH above `C − 2` (R78). -/
  | lengthRaises (b : Byte) (hl : s.params.lmax < b) : Effect s (.length b) (s.setEv (.err .bufferOverflow))
  | length (b : Byte) (hl : b ≤ s.params.lmax) : Effect s (.length b) (afterLength b s)
  /-- PAYLOAD with no room in the buffer or in the frame (R79). -/
  | payloadRaises (b : Byte)
      (hr : ¬(s.ctx.accumulatedLength < s.params.lmax ∧ s.ctx.accumulatedLength < s.ctx.declaredLength)) :
      Effect s (.payload b) (s.setEv (.err .bufferOverflow))
  | payload (b : Byte) (hc : s.ctx.accumulatedLength < s.params.lmax)
      (hd : s.ctx.accumulatedLength < s.ctx.declaredLength) : Effect s (.payload b) (afterPayload b s)

/-- Every instruction answers a next state, by the effect of its meaning. -/
theorem exec_effect (i : Instr) (s : State) : ∃ t, exec i s = .next t ∧ Effect s (meaning s.ctx.flags i) t := by
  rw [← exec_meaning]
  rcases meaning_cases s.ctx.flags i with h | h | h | h | ⟨b, h | h | h⟩ <;> rw [h]
  · exact ⟨_, rfl, .start⟩
  · exact ⟨_, rfl, .clear⟩
  · exact ⟨_, rfl, .idle⟩
  · refine ⟨_, execStop_eq s, ?_⟩
    split_ifs with h1 h2 h3 h4
    · exact .stopRaises _ (by decide)
    · exact .stopRaises _ (by decide)
    · exact .stopRaises _ (by decide)
    · exact .stopRaises _ (by decide)
    · exact .stop (by simpa using h1) (by simpa using h2) (by simpa using h3) (by simpa using h4)
  · exact ⟨_, rfl, .stray b⟩
  · refine ⟨_, execLength_eq b s, ?_⟩
    split_ifs with h1
    · exact .lengthRaises b (by simpa using h1)
    · exact .length b (by simpa using h1)
  · refine ⟨_, execPayload_eq b s, ?_⟩
    split_ifs with h1
    · exact .payload b (roomInBuffer_iff.1 h1.1) (roomInFrame_iff.1 h1.2)
    · exact .payloadRaises b (by simpa using h1)

/-- If an instruction answers a next state, it had the effect of its meaning. -/
theorem effect_of_exec {i : Instr} {s t : State} (h : exec i s = .next t) : Effect s (meaning s.ctx.flags i) t := by
  obtain ⟨u, hu, he⟩ := exec_effect i s
  rw [hu] at h
  cases h
  exact he

/-- If a step answers a next state, it had the effect of the sampled symbol's meaning. -/
theorem effect_of_step {s t : State} (h : step s = .next t) :
    Effect (advance s) (meaning s.ctx.flags (decodeSymbol (fetch s))) t :=
  effect_of_exec h

/-- No instruction touches the parameters or the symbols that wait. -/
theorem Effect.keeps {s t : State} {j : Instr} (h : Effect s j t) : t.params = s.params ∧ t.input = s.input := by
  cases h <;> exact ⟨rfl, rfl⟩

/-- The effect of one of the four resetting operations. -/
theorem Effect.of_resetting {s t : State} {j : Instr} (h : Effect s j t) (hj : j = .start ∨ j = .esc) :
    (j = .start ∧ t = afterStart s) ∨ (j = .esc ∧ t = afterClear s) := by
  rcases hj with rfl | rfl <;> cases h
  · exact .inl ⟨rfl, rfl⟩
  · exact .inr ⟨rfl, rfl⟩

end Sys2Proof.Machine
end

section
/-! The registers and the buffer after each accepting meaning. -/

namespace Sys2Proof.Machine

variable (s : State) (b : Byte) (j : Nat)

@[simp] theorem memRead_advance : memRead j (advance s) = memRead j s := rfl
@[simp] theorem memRead_setEv (e : Event) : memRead j (s.setEv e) = memRead j s := rfl
@[simp] theorem storeIndex_advance : storeIndex (advance s) = storeIndex s := rfl

@[simp] theorem afterClear_ctx : (afterClear s).ctx = Context.default := rfl
@[simp] theorem afterClear_ev : (afterClear s).ev = .none := rfl
@[simp] theorem memRead_afterClear : memRead j (afterClear s) = 0x00 := rfl

@[simp] theorem afterStart_flags : (afterStart s).ctx.flags = startedOnly := rfl
@[simp] theorem afterStart_declaredLength : (afterStart s).ctx.declaredLength = 0 := rfl
@[simp] theorem afterStart_accumulatedLength : (afterStart s).ctx.accumulatedLength = 0 := rfl
@[simp] theorem afterStart_buffer : (afterStart s).ctx.buffer = [] := rfl
@[simp] theorem afterStart_ev : (afterStart s).ev = .none := rfl
@[simp] theorem memRead_afterStart : memRead j (afterStart s) = 0x00 := rfl

@[simp] theorem afterLength_flags : (afterLength b s).ctx.flags = setLengthKnown s.ctx.flags := rfl
@[simp] theorem afterLength_declaredLength : (afterLength b s).ctx.declaredLength = b := rfl
@[simp] theorem afterLength_accumulatedLength :
    (afterLength b s).ctx.accumulatedLength = s.ctx.accumulatedLength := rfl
@[simp] theorem afterLength_buffer : (afterLength b s).ctx.buffer = s.ctx.buffer := rfl
@[simp] theorem afterLength_ev : (afterLength b s).ev = .none := rfl
@[simp] theorem afterLength_params : (afterLength b s).params = s.params := rfl
@[simp] theorem memRead_afterLength : memRead j (afterLength b s) = memRead j s := rfl

@[simp] theorem afterPayload_flags : (afterPayload b s).ctx.flags = s.ctx.flags := rfl
@[simp] theorem afterPayload_declaredLength : (afterPayload b s).ctx.declaredLength = s.ctx.declaredLength := rfl
@[simp] theorem afterPayload_accumulatedLength :
    (afterPayload b s).ctx.accumulatedLength = s.ctx.accumulatedLength + 1 := rfl
@[simp] theorem afterPayload_buffer :
    (afterPayload b s).ctx.buffer = bufWrite s.ctx.buffer (storeIndex s) b := rfl
@[simp] theorem afterPayload_ev : (afterPayload b s).ev = .none := rfl
@[simp] theorem afterPayload_params : (afterPayload b s).params = s.params := rfl

@[simp] theorem afterStop_flags : (afterStop s).ctx.flags = setStopped s.ctx.flags := rfl
@[simp] theorem afterStop_declaredLength : (afterStop s).ctx.declaredLength = s.ctx.declaredLength := rfl
@[simp] theorem afterStop_accumulatedLength : (afterStop s).ctx.accumulatedLength = s.ctx.accumulatedLength := rfl
@[simp] theorem afterStop_buffer :
    (afterStop s).ctx.buffer = bufWrite s.ctx.buffer (storeIndex s) s.params.term := rfl
@[simp] theorem afterStop_ev : (afterStop s).ev = .done := rfl
@[simp] theorem afterStop_params : (afterStop s).params = s.params := rfl

/-- PAYLOAD writes its byte to the slot at `storeIndex` (20_memory.md R38). -/
theorem memRead_afterPayload {s : State} (hm : Memory.wf s.ctx.buffer) (b : Byte) (j : Nat) :
    memRead j (afterPayload b s) = if j = storeIndex s then b else memRead j s :=
  bufRead_bufWrite hm _ _ _

/-- STOP writes TERM to the slot at `storeIndex` (20_memory.md R39). -/
theorem memRead_afterStop {s : State} (hm : Memory.wf s.ctx.buffer) (j : Nat) :
    memRead j (afterStop s) = if j = storeIndex s then s.params.term else memRead j s :=
  bufRead_bufWrite hm _ _ _

/-- A length below another one does not wrap when it is counted up. -/
theorem toNat_add_one_of_lt {a d : Byte} (h : a < d) : (a + 1).toNat = a.toNat + 1 := by bv_omega

end Sys2Proof.Machine
end

section
/-! The invariants of 10_state.md section 6 hold at reset, and each of the seven meanings keeps them. -/

namespace Sys2Proof.Safety

open Machine

/-- The invariants speak of the context and the parameters alone. -/
theorem Inv.of_ctx_eq {s t : State} (h : Inv s) (hc : t.ctx = s.ctx) (hp : t.params = s.params) : Inv t := by
  obtain ⟨c, e, p, l⟩ := s
  obtain ⟨c', e', p', l'⟩ := t
  obtain rfl : c' = c := hc
  obtain rfl : p' = p := hp
  exact ⟨h.len, h.cap, h.flags, h.stop, h.fresh, h.tail, h.values, h.buffer⟩

/-- An empty frame whose length is not known meets the invariants. -/
theorem inv_of_empty {s : State} (hf : s.ctx.flags = 0b000 ∨ s.ctx.flags = 0b001) (hd : s.ctx.declaredLength = 0)
    (ha : s.ctx.accumulatedLength = 0) (hb : s.ctx.buffer = []) : Inv s := by
  have hk : lengthKnown s.ctx.flags = false := by rcases hf with h | h <;> rw [h] <;> rfl
  have hst : stopped s.ctx.flags = false := by rcases hf with h | h <;> rw [h] <;> rfl
  have hread : ∀ i, memRead i s = 0x00 := fun i => by rw [memRead, hb]; rfl
  exact
    { len := fun h => absurd h (by simp [hk])
      cap := by simp [InvCap, hd, ha, BitVec.le_def]
      flags := by rcases hf with h | h <;> simp [InvFlags, h]
      stop := fun h => absurd h (by simp [hst])
      fresh := fun _ => ⟨hd, ha, hread⟩
      tail := ⟨fun _ i _ => hread i, fun h => absurd h (by simp [hst])⟩
      values := ⟨fun i h => absurd h (by simp [ha]), fun h => absurd h (by simp [hk])⟩
      buffer := by simp [InvBuffer, Memory.wf, hb] }

/-- Before the length is known, a started frame has Started alone set. -/
theorem Inv.flags_of_awaiting {s : State} (h : Inv s) (hs : started s.ctx.flags = true)
    (hk : lengthKnown s.ctx.flags = false) : s.ctx.flags = 0b001 := by
  rcases h.flags with hf | hf | hf | hf <;> rw [hf] at hs hk ⊢ <;> revert hs hk <;> decide

/-- Stopped is clear while payload is missing. -/
theorem Inv.not_stopped_of_lt {s : State} (h : Inv s) (hd : s.ctx.accumulatedLength < s.ctx.declaredLength) :
    stopped s.ctx.flags = false := by
  rw [← Bool.not_eq_true]
  intro hst
  have := (h.stop hst).1
  bv_omega

/-- An accepted LENGTH byte keeps the invariants. -/
theorem inv_afterLength {s : State} {b : Byte} (h : Inv s) (hb : isDataValue b = true)
    (hs : started s.ctx.flags = true) (hk : lengthKnown s.ctx.flags = false) (hl : b ≤ s.params.lmax) :
    Inv (afterLength b s) := by
  obtain ⟨-, ha, hread⟩ := h.fresh hk
  have hf : (afterLength b s).ctx.flags = 0b011 := by rw [afterLength_flags, h.flags_of_awaiting hs hk]; rfl
  have hst : stopped (afterLength b s).ctx.flags = false := by rw [hf]; rfl
  exact
    { len := fun _ => by simp [ha, BitVec.le_def]
      cap := ⟨hl, h.cap.2⟩
      flags := .inr (.inr (.inl hf))
      stop := fun h => absurd h (by rw [hst]; decide)
      fresh := fun h => absurd h (by simp)
      tail := ⟨fun _ i _ => hread i, fun h => absurd h (by rw [hst]; decide)⟩
      values := ⟨fun i h => absurd h (by simp [ha]), fun _ => hb⟩
      buffer := h.buffer }

/-- An accepted PAYLOAD byte keeps the invariants. -/
theorem inv_afterPayload {s : State} {b : Byte} (h : Inv s) (hb : isDataValue b = true)
    (hk : lengthKnown s.ctx.flags = true) (hc : s.ctx.accumulatedLength < s.params.lmax)
    (hd : s.ctx.accumulatedLength < s.ctx.declaredLength) : Inv (afterPayload b s) := by
  have hst : stopped s.ctx.flags = false := h.not_stopped_of_lt hd
  have ha : (s.ctx.accumulatedLength + 1).toNat = storeIndex s + 1 := toNat_add_one_of_lt hd
  have hlt : storeIndex s < s.params.capacity := index_lt_capacity (by simpa using BitVec.le_of_lt hc)
  have hread := memRead_afterPayload h.buffer.1 b
  exact
    { len := fun _ => by simp only [afterPayload_accumulatedLength, afterPayload_declaredLength]; bv_omega
      cap := ⟨h.cap.1, by simp only [afterPayload_accumulatedLength, afterPayload_params]; bv_omega⟩
      flags := h.flags
      stop := fun h => absurd h (by simp [hst])
      fresh := fun h => absurd h (by simp [hk])
      tail := by
        refine ⟨fun _ i hi => ?_, fun h => absurd h (by simp [hst])⟩
        rw [afterPayload_accumulatedLength, ha] at hi
        rw [hread, if_neg (by omega)]
        exact h.tail.1 hst i (by unfold storeIndex at hi; omega)
      values := by
        refine ⟨fun i hi => ?_, h.values.2⟩
        rw [afterPayload_accumulatedLength, ha] at hi
        rw [hread]
        split_ifs with hij
        · exact hb
        · exact h.values.1 i (by unfold storeIndex at hi hij; omega)
      buffer := ⟨bufWrite_wf h.buffer.1 _ _, bufWrite_inRange h.buffer.2 hlt⟩ }

/-- A successful STOP keeps the invariants. -/
theorem inv_afterStop {s : State} (h : Inv s) (hk : lengthKnown s.ctx.flags = true)
    (hd : s.ctx.accumulatedLength = s.ctx.declaredLength) (hc : s.ctx.accumulatedLength ≤ s.params.lmax) :
    Inv (afterStop s) := by
  have hf : (afterStop s).ctx.flags = 0b111 := by
    rw [afterStop_flags]
    rcases h.flags with hf | hf | hf | hf <;> rw [hf] at hk ⊢ <;> revert hk <;> decide
  have hlt : storeIndex s < s.params.capacity := index_lt_capacity (by simpa using hc)
  have hread := memRead_afterStop h.buffer.1
  have hterm : memRead (storeIndex s) (afterStop s) = s.params.term := by rw [hread, if_pos rfl]
  have htail : ∀ i, storeIndex s < i → memRead i (afterStop s) = 0x00 := fun i hi => by
    rw [hread, if_neg (by omega)]
    cases hst : stopped s.ctx.flags with
    | false => exact h.tail.1 hst i hi.le
    | true => exact (h.tail.2 hst).2 i hi
  exact
    { len := fun _ => by simp [hd]
      cap := h.cap
      flags := .inr (.inr (.inr hf))
      stop := fun _ => ⟨hd, hterm⟩
      fresh := fun h => absurd h (by simp [hk])
      tail := ⟨fun h => absurd h (by simp), fun _ => ⟨hterm, htail⟩⟩
      values := by
        refine ⟨fun i hi => ?_, fun _ => h.values.2 hk⟩
        rw [afterStop_accumulatedLength] at hi
        rw [hread, if_neg (by unfold storeIndex; omega)]
        exact h.values.1 i hi
      buffer := ⟨bufWrite_wf h.buffer.1 _ _, bufWrite_inRange h.buffer.2 hlt⟩ }

end Sys2Proof.Safety

namespace Sys2Proof.Machine

open Safety

/-- Every move of a clock edge keeps the invariants. -/
theorem Move.inv {s t : State} (hm : Move s t) (h : Inv s) : Inv t := by
  cases hm with
  | clear => exact inv_of_empty (.inl rfl) rfl rfl rfl
  | start => exact inv_of_empty (.inr rfl) rfl rfl rfl
  | idle => exact h.of_ctx_eq rfl rfl
  | raise k _ => exact h.of_ctx_eq rfl rfl
  | length b hb hs hk hl => exact inv_afterLength h hb hs hk hl
  | payload b hb _ hk hc hd => exact inv_afterPayload h hb hk hc hd
  | stop _ hk hd hc => exact inv_afterStop h hk hd hc

end Sys2Proof.Machine
end

section
/-! The obligations about the invariants. -/

namespace Sys2Proof.Proofs

open Machine Safety

/-- Settles O40, by the moves of a clock edge. -/
theorem stepKeepsInv : Obligations.StepKeepsInv := fun _ _ h hstep =>
  (move_of_step hstep).inv (h.of_ctx_eq rfl rfl)

/-- Settles O39. -/
theorem invHoldsAtReset : Obligations.InvHoldsAtReset :=
  ⟨fun _ => inv_of_empty (.inl rfl) rfl rfl rfl, rfl, rfl⟩

end Sys2Proof.Proofs
end

section
/-! What each effect does to EV, the flags, the two lengths and the last slot. -/

namespace Sys2Proof.Machine

/-! EV (10_state.md R18). -/

/-- No meaning reads EV, and each writes it. -/
theorem exec_setEv (i : Instr) (s : State) (e : Event) : exec i (s.setEv e) = exec i s := by
  rw [← exec_meaning, ← exec_meaning i s, State.setEv_flags]
  rcases meaning_cases s.ctx.flags i with h | h | h | h | ⟨b, h | h | h⟩ <;> rw [h]
  · rfl
  · rfl
  · rfl
  · exact (execStop_eq _).trans (execStop_eq s).symm
  · rfl
  · exact (execLength_eq b _).trans (execLength_eq b s).symm
  · exact (execPayload_eq b _).trans (execPayload_eq b s).symm

/-- Every event but the kind that is never raised has one of the six values of R18. -/
theorem Event.bits_mem {e : Event} (h : e ≠ .err .invalidContext) :
    e.bits ∈ [0b0000, 0b1000, 0b0010, 0b0011, 0b0100, 0b0101] := by
  cases e with
  | none => decide
  | done => decide
  | err k =>
    cases k with
    | invalidContext => exact absurd rfl h
    | _ => decide

@[simp] theorem Event.bits_none : Event.bits .none = 0b0000 := rfl

/-- No clock edge raises `invalidContext` (60_exceptions.md R94). -/
theorem Move.ev_ne_invalidContext {s t : State} (h : Move s t) : t.ev ≠ .err .invalidContext := by
  cases h with
  | raise k hk => simpa using hk
  | _ => simp

/-- An event is not both a completion and an error. -/
theorem Event.not_done_and_err (e : Event) : ¬(e.doneBit = true ∧ (e.errCode != 0) = true) := by
  cases e <;> simp [Event.doneBit, Event.errCode]

/-- Where no byte is accepted, the operation is HWRESET, RESET or IDLE. -/
theorem decodeSymbol_of_not_isByte {x : Symbol} (h : x.isByte = false) :
    decodeSymbol x = .hwreset ∨ decodeSymbol x = .reset ∨ decodeSymbol x = .idle := by
  rw [isByte_eq] at h
  rw [decodeSymbol_eq]
  cases hr : x.rst <;> cases hc : x.ctxReset <;> cases hv : x.inValid <;> simp_all

/-- An edge that accepts no byte writes None to EV. -/
theorem ev_of_step_of_not_isByte {s t : State} (h : step s = .next t) (hx : (fetch s).isByte = false) :
    t.ev = .none := by
  have he := effect_of_step h
  rcases decodeSymbol_of_not_isByte hx with hd | hd | hd <;> rw [hd] at he <;> cases he <;> rfl

/-- The fields of `EV` lie in its 4 bits as R18 says. -/
theorem Event.bits_fields (e : Event) : e.bits.getLsbD 3 = e.doneBit ∧ e.bits.extractLsb' 0 3 = e.errCode := by
  cases e with
  | none => decide
  | done => decide
  | err k => cases k <;> decide

/-! The flags (10_state.md R26). -/

/-- The values that a clock edge can leave in `flags`. -/
theorem Move.flags_cases {s t : State} (h : Move s t) :
    t.ctx.flags = noFlags ∨ t.ctx.flags = startedOnly ∨ t.ctx.flags = s.ctx.flags ∨
    (started s.ctx.flags = true ∧ lengthKnown s.ctx.flags = false ∧ t.ctx.flags = setLengthKnown s.ctx.flags) ∨
    (started s.ctx.flags = true ∧ lengthKnown s.ctx.flags = true ∧
      s.ctx.accumulatedLength = s.ctx.declaredLength ∧ t.ctx.flags = setStopped s.ctx.flags) := by
  cases h with
  | clear => exact .inl rfl
  | start => exact .inr (.inl rfl)
  | idle => exact .inr (.inr (.inl rfl))
  | raise => exact .inr (.inr (.inl rfl))
  | length _ _ hs hk _ => exact .inr (.inr (.inr (.inl ⟨hs, hk, rfl⟩)))
  | payload => exact .inr (.inr (.inl rfl))
  | stop hs hk hd _ => exact .inr (.inr (.inr (.inr ⟨hs, hk, hd, rfl⟩)))

theorem and_setLengthKnown (f : BitVec 3) : f &&& setLengthKnown f = f := by revert f; decide
theorem and_setStopped (f : BitVec 3) : f &&& setStopped f = f := by revert f; decide

/-- Only the resetting operations clear a flag. -/
theorem Effect.flags_and {s t : State} {j : Instr} (h : Effect s j t) (hj : ¬(j = .start ∨ j = .esc)) :
    s.ctx.flags &&& t.ctx.flags = s.ctx.flags := by
  cases h with
  | start | clear => simp at hj
  | stop => exact and_setStopped _
  | length => exact and_setLengthKnown _
  | _ => exact BitVec.and_self

/-! The two lengths (10_state.md R15, R16). -/

theorem Effect.accumulatedLength_of_resetting {s t : State} {j : Instr} (h : Effect s j t)
    (hj : j = .start ∨ j = .esc) : t.ctx.accumulatedLength = 0 := by
  rcases h.of_resetting hj with ⟨-, rfl⟩ | ⟨-, rfl⟩ <;> rfl

theorem Effect.declaredLength_of_resetting {s t : State} {j : Instr} (h : Effect s j t)
    (hj : j = .start ∨ j = .esc) : t.ctx.declaredLength = 0 := by
  rcases h.of_resetting hj with ⟨-, rfl⟩ | ⟨-, rfl⟩ <;> rfl

/-- A PAYLOAD byte that raises nothing was accepted. -/
theorem Effect.of_payload {s t : State} {b : Byte} (h : Effect s (.payload b) t) (hev : t.ev = .none) :
    s.ctx.accumulatedLength < s.ctx.declaredLength ∧ t = afterPayload b s := by
  cases h with
  | payloadRaises => cases hev
  | payload _ _ hd => exact ⟨hd, rfl⟩

/-- A LENGTH byte that raises nothing was accepted. -/
theorem Effect.of_length {s t : State} {b : Byte} (h : Effect s (.length b) t) (hev : t.ev = .none) :
    b ≤ s.params.lmax ∧ t = afterLength b s := by
  cases h with
  | lengthRaises => cases hev
  | length _ hl => exact ⟨hl, rfl⟩

/-- But for the resetting operations, only an accepted PAYLOAD byte writes `accumulated_length`. -/
theorem Effect.accumulatedLength_eq {s t : State} {j : Instr} (h : Effect s j t) (hj : ¬(j = .start ∨ j = .esc))
    (hp : ∀ b, j = .payload b → t.ev ≠ .none) : t.ctx.accumulatedLength = s.ctx.accumulatedLength := by
  cases h with
  | start | clear => simp at hj
  | payload b => exact absurd rfl (hp b rfl)
  | _ => rfl

/-- But for the resetting operations, only an accepted LENGTH byte writes `declared_length`. -/
theorem Effect.declaredLength_eq {s t : State} {j : Instr} (h : Effect s j t) (hj : ¬(j = .start ∨ j = .esc))
    (hl : ∀ b, j = .length b → t.ev ≠ .none) : t.ctx.declaredLength = s.ctx.declaredLength := by
  cases h with
  | start | clear => simp at hj
  | length b => exact absurd rfl (hl b rfl)
  | _ => rfl

/-- STOP before the length is known raises by Started alone (40_control_bytes.md R73). -/
theorem execStop_of_not_lengthKnown {s : State} (hk : lengthKnown s.ctx.flags = false) :
    execStop s = .next (s.setEv (.err (if started s.ctx.flags = false then .missingStart else .notReady))) := by
  rw [execStop_eq]
  split_ifs <;> rfl

/-- Before the length is known, no instruction but PAYLOAD lets `declared_length` be seen (90_conflicts.md C3). -/
theorem exec_setDeclared {i : Instr} {s t : State} (d : Byte) (hk : lengthKnown s.ctx.flags = false)
    (hp : ∀ b, meaning s.ctx.flags i ≠ .payload b) (h : exec i s = .next t) :
    ∃ u, exec i (s.setDeclared d) = .next u ∧ u.ev = t.ev ∧ u.ctx.flags = t.ctx.flags ∧
      u.ctx.accumulatedLength = t.ctx.accumulatedLength ∧ u.ctx.buffer = t.ctx.buffer := by
  rw [← exec_meaning] at h ⊢
  rw [State.setDeclared_flags]
  rcases meaning_cases s.ctx.flags i with hm | hm | hm | hm | ⟨b, hm | hm | hm⟩ <;> rw [hm] at h ⊢
  · cases h; exact ⟨_, rfl, rfl, rfl, rfl, rfl⟩
  · cases h; exact ⟨_, rfl, rfl, rfl, rfl, rfl⟩
  · cases h; exact ⟨_, rfl, rfl, rfl, rfl, rfl⟩
  · cases (execStop_of_not_lengthKnown hk).symm.trans h
    exact ⟨_, execStop_of_not_lengthKnown (s := s.setDeclared d) hk, rfl, rfl, rfl, rfl⟩
  · cases h; exact ⟨_, rfl, rfl, rfl, rfl, rfl⟩
  · cases (execLength_eq b s).symm.trans h
    refine ⟨_, execLength_eq b (s.setDeclared d), ?_⟩
    rw [State.setDeclared_params]
    split_ifs <;> exact ⟨rfl, rfl, rfl, rfl⟩
  · exact absurd hm (hp b)

/-! The buffer (10_state.md R29, 20_memory.md R38, R39). -/

/-- A meaning that neither resets nor stores leaves every slot; one that stores leaves every slot but one. -/
theorem Effect.memRead_eq {s t : State} {j : Instr} {n : Nat} (h : Effect s j t) (hj : ¬(j = .start ∨ j = .esc))
    (hm : Memory.wf s.ctx.buffer) (hn : n = storeIndex s → s.params.lmax.toNat < n) :
    memRead n t = memRead n s := by
  cases h with
  | start | clear => simp at hj
  | stop _ _ _ hc =>
    rw [memRead_afterStop hm, if_neg fun h => ?_]
    have := hn h
    unfold storeIndex at h
    bv_omega
  | payload b hc _ =>
    rw [memRead_afterPayload hm, if_neg fun h => ?_]
    have := hn h
    unfold storeIndex at h
    bv_omega
  | _ => rfl

/-- Where Stopped is set and TERM stored, a further STOP leaves the context as it is (10_state.md R27). -/
theorem afterStop_ctx_of_stopped {s : State} (hm : Memory.wf s.ctx.buffer) (hst : stopped s.ctx.flags = true)
    (hterm : memRead (storeIndex s) s = s.params.term) : (afterStop s).ctx = s.ctx := by
  have hflags : (afterStop s).ctx.flags = s.ctx.flags := setStopped_of_stopped _ hst
  have hbuffer : (afterStop s).ctx.buffer = s.ctx.buffer := by
    rw [afterStop_buffer, ← hterm]
    exact bufWrite_same hm _
  calc (afterStop s).ctx
      = ⟨(afterStop s).ctx.flags, s.ctx.declaredLength, s.ctx.accumulatedLength, (afterStop s).ctx.buffer⟩ := rfl
    _ = s.ctx := by rw [hflags, hbuffer]

/-! The forms of the instructions that store nothing, and of those that store (10_state.md R33). -/

/-- An instruction of the forms that store nothing is run as IDLE, STRAY or LENGTH. -/
theorem meaning_of_nonStoring {i : Instr} {b : Byte} {f : BitVec 3}
    (h : i = .idle ∨ i = .stray b ∨ i = .length b ∨
      ((Safety.IsDataRow i b ∨ (i = .byte b ∧ isDataValue b = true)) ∧
        (started f = false ∨ lengthKnown f = false))) :
    meaning f i = .idle ∨ meaning f i = .stray b ∨
      (meaning f i = .length b ∧ (i = .length b ∨ started f = true)) := by
  rcases h with rfl | rfl | rfl | ⟨hi, hf⟩
  · exact .inl rfl
  · exact .inr (.inl rfl)
  · exact .inr (.inr ⟨rfl, .inl rfl⟩)
  · rw [meaning_of_data f hi]
    cases hs : started f with
    | false => exact .inr (.inl (decodeMode_of_not_started b hs))
    | true =>
      have hk : lengthKnown f = false := by simpa [hs] using hf
      exact .inr (.inr ⟨decodeMode_of_awaiting b hs hk, .inr rfl⟩)

/-- An instruction of the forms that may store is run as STOP or PAYLOAD. -/
theorem meaning_of_storing {i : Instr} {b : Byte} {f : BitVec 3}
    (h : i = .stop ∨ i = .byte 0x03 ∨ i = .payload b ∨
      ((Safety.IsDataRow i b ∨ (i = .byte b ∧ isDataValue b = true)) ∧
        started f = true ∧ lengthKnown f = true)) :
    (meaning f i = .stop ∧ (i = .stop ∨ i = .byte 0x03)) ∨
      (meaning f i = .payload b ∧ ¬(i = .stop ∨ i = .byte 0x03)) := by
  rcases h with rfl | rfl | rfl | ⟨hi, hs, hk⟩
  · exact .inl ⟨rfl, .inl rfl⟩
  · exact .inl ⟨rfl, .inr rfl⟩
  · exact .inr ⟨rfl, by simp⟩
  · have hm : meaning f i = .payload b := (meaning_of_data f hi).trans (decodeMode_of_lengthKnown b hs hk)
    refine .inr ⟨hm, ?_⟩
    rintro (rfl | rfl) <;> cases hm

/-! Stopped (10_state.md R14). -/

/-- The two states differ at most in Stopped and in the symbols that wait. -/
structure AgreeButStopped (s r : State) : Prop where
  started           : started s.ctx.flags = started r.ctx.flags
  lengthKnown       : lengthKnown s.ctx.flags = lengthKnown r.ctx.flags
  declaredLength    : s.ctx.declaredLength = r.ctx.declaredLength
  accumulatedLength : s.ctx.accumulatedLength = r.ctx.accumulatedLength
  buffer            : s.ctx.buffer = r.ctx.buffer
  ev                : s.ev = r.ev
  params            : s.params = r.params

/-- Flipping Stopped gives a state that agrees but for Stopped. -/
theorem agreeButStopped_flip (s : State) : AgreeButStopped s (s.setFlags (s.ctx.flags ^^^ 0b100)) where
  started           := by rw [State.setFlags_flags]; generalize s.ctx.flags = f; revert f; decide
  lengthKnown       := by rw [State.setFlags_flags]; generalize s.ctx.flags = f; revert f; decide
  declaredLength    := rfl
  accumulatedLength := rfl
  buffer            := rfl
  ev                := rfl
  params            := rfl

theorem modeBits_congr {f g : BitVec 3} (hs : started f = started g) (hk : lengthKnown f = lengthKnown g) :
    modeBits f = modeBits g := by revert f g; decide

/-- The meaning of an instruction reads `flags[1:0]` alone. -/
theorem meaning_congr {f g : BitVec 3} (h : modeBits f = modeBits g) (i : Instr) : meaning f i = meaning g i := by
  cases i <;> simp only [meaning, h]

namespace AgreeButStopped

variable {s r : State} (h : AgreeButStopped s r)
include h

theorem frameFull_eq : frameFull s = frameFull r := by
  rw [frameFull, frameFull, h.accumulatedLength, h.declaredLength]

theorem roomInBuffer_eq : roomInBuffer s = roomInBuffer r := by
  rw [roomInBuffer, roomInBuffer, h.accumulatedLength, h.params]

theorem roomInFrame_eq : roomInFrame s = roomInFrame r := by
  rw [roomInFrame, roomInFrame, h.accumulatedLength, h.declaredLength]

theorem storeIndex_eq : storeIndex s = storeIndex r := by
  rw [storeIndex, storeIndex, h.accumulatedLength]

theorem setEv (e : Event) : AgreeButStopped (s.setEv e) (r.setEv e) := { h with ev := rfl }

theorem afterClear : AgreeButStopped (afterClear s) (afterClear r) := ⟨rfl, rfl, rfl, rfl, rfl, rfl, h.params⟩

theorem afterStart : AgreeButStopped (afterStart s) (afterStart r) := ⟨rfl, rfl, rfl, rfl, rfl, rfl, h.params⟩

theorem afterLength (b : Byte) : AgreeButStopped (afterLength b s) (afterLength b r) where
  started           := by simp [h.started]
  lengthKnown       := by simp
  declaredLength    := rfl
  accumulatedLength := h.accumulatedLength
  buffer            := h.buffer
  ev                := rfl
  params            := h.params

theorem afterPayload (b : Byte) : AgreeButStopped (afterPayload b s) (afterPayload b r) where
  started           := h.started
  lengthKnown       := h.lengthKnown
  declaredLength    := h.declaredLength
  accumulatedLength := by simp [h.accumulatedLength]
  buffer            := by simp [h.buffer, h.storeIndex_eq]
  ev                := rfl
  params            := h.params

theorem afterStop : AgreeButStopped (afterStop s) (afterStop r) where
  started           := by simp [h.started]
  lengthKnown       := by simp [h.lengthKnown]
  declaredLength    := h.declaredLength
  accumulatedLength := h.accumulatedLength
  buffer            := by simp [h.buffer, h.storeIndex_eq, h.params]
  ev                := rfl
  params            := h.params

/-- From states that agree but for Stopped, every instruction goes to such states. -/
theorem exec (i : Instr) : ∃ t u, Machine.exec i s = .next t ∧ Machine.exec i r = .next u ∧ AgreeButStopped t u := by
  rw [← exec_meaning i s, ← exec_meaning i r, ← meaning_congr (modeBits_congr h.started h.lengthKnown) i]
  rcases meaning_cases s.ctx.flags i with hm | hm | hm | hm | ⟨b, hm | hm | hm⟩ <;> rw [hm]
  · exact ⟨_, _, rfl, rfl, h.afterStart⟩
  · exact ⟨_, _, rfl, rfl, h.afterClear⟩
  · exact ⟨_, _, rfl, rfl, h.setEv _⟩
  · refine ⟨_, _, execStop_eq s, execStop_eq r, ?_⟩
    rw [← h.started, ← h.lengthKnown, ← h.frameFull_eq, ← h.params, ← h.accumulatedLength]
    split_ifs
    · exact h.setEv _
    · exact h.setEv _
    · exact h.setEv _
    · exact h.setEv _
    · exact h.afterStop
  · exact ⟨_, _, rfl, rfl, h.setEv _⟩
  · refine ⟨_, _, execLength_eq b s, execLength_eq b r, ?_⟩
    rw [← h.params]
    split_ifs
    · exact h.setEv _
    · exact h.afterLength b
  · refine ⟨_, _, execPayload_eq b s, execPayload_eq b r, ?_⟩
    rw [← h.roomInBuffer_eq, ← h.roomInFrame_eq]
    split_ifs
    · exact h.afterPayload b
    · exact h.setEv _

end AgreeButStopped

end Sys2Proof.Machine
end

section
/-! The obligations about the state and the frames of the instructions. -/

namespace Sys2Proof.Proofs

open Machine Safety

/-- Settles O34: no meaning reads EV, and each writes it whole. -/
theorem eventRegisterAfterAStep : Obligations.EventRegisterAfterAStep := fun s t h =>
  ⟨Event.bits_mem (move_of_step h).ev_ne_invalidContext,
    fun hx => by rw [ev_of_step_of_not_isByte h hx, Event.bits_none],
    Event.not_done_and_err t.ev,
    fun e => (exec_setEv _ (advance s) e).trans h⟩

/-- Settles O42, by the values that a clock edge can leave in `flags`. -/
theorem flagsAreMonotonicWithinAFrame : Obligations.FlagsAreMonotonicWithinAFrame := by
  intro s t h
  have hm := (move_of_step h).flags_cases
  simp only [advance_ctx] at hm
  refine ⟨fun hi => ?_, fun ht hs => ?_, fun ht hk => ?_, fun ht hst => ?_, fun hinv => ?_⟩
  · exact (effect_of_step h).flags_and ((decodeSymbol_mem_resetting_iff _ _).not.1 hi)
  · rcases hm with hm | hm | hm | ⟨hs', -⟩ | ⟨hs', -⟩
    · simp [hm] at ht
    · exact hm
    · simp [hm, hs] at ht
    · simp [hs'] at hs
    · simp [hs'] at hs
  · rcases hm with hm | hm | hm | ⟨hs, -⟩ | ⟨hs, -⟩
    · simp [hm] at ht
    · simp [hm] at ht
    · simp [hm, hk] at ht
    · exact hs
    · exact hs
  · rcases hm with hm | hm | hm | ⟨-, -, hm⟩ | ⟨hs, hk, hd, -⟩
    · simp [hm] at ht
    · simp [hm] at ht
    · simp [hm, hst] at ht
    · simp [hm, hst] at ht
    · exact ⟨hs, hk, hd⟩
  · simpa [InvFlags] using (stepKeepsInv s t hinv h).flags

/-- Settles O43: with Stopped set a further STOP writes what is there, and LENGTH and PAYLOAD accept nothing. -/
theorem completedFrameIsHeld : Obligations.CompletedFrameIsHeld := by
  intro s t hinv hst h hi
  have hj := (decodeSymbol_mem_resetting_iff s.ctx.flags _).not.1 hi
  obtain ⟨hd, hterm⟩ := hinv.stop hst
  have hm := move_of_step h
  have he := effect_of_step h
  generalize hmean : meaning s.ctx.flags (decodeSymbol (fetch s)) = j at he hj
  cases he with
  | start | clear => simp at hj
  | stop => exact afterStop_ctx_of_stopped (s := advance s) hinv.buffer.1 hst hterm
  | length b _ =>
    obtain ⟨-, -, hs, hk⟩ := meaning_decodeSymbol_length hmean
    rw [hinv.flags_of_awaiting hs hk] at hst
    exact absurd hst (by decide)
  | payload b _ hlt =>
    rw [hinv.not_stopped_of_lt hlt] at hst
    exact absurd hst (by decide)
  | _ => rfl

/-- Settles O44: a store is below `C − 1`. -/
theorem lastSlotIsNeverWritten : Obligations.LastSlotIsNeverWritten := by
  intro i s t hb h
  have he := effect_of_exec h
  refine ⟨fun hi => ?_, fun hi => ?_⟩
  · rcases he.of_resetting ((mem_resetting_iff _ i).1 hi) with ⟨-, rfl⟩ | ⟨-, rfl⟩ <;> rfl
  · refine he.memRead_eq ((mem_resetting_iff _ i).not.1 hi) hb.1 fun _ => ?_
    unfold Params.capacity
    omega

/-- Settles O45: of the effects, only the resetting ones and an accepted PAYLOAD byte write the register. -/
theorem accumulatedLengthIsWrittenOnly : Obligations.AccumulatedLengthIsWrittenOnly := by
  refine ⟨fun s t h => ?_, fun s hinv => ?_⟩
  · have he := effect_of_step h
    rw [decodeSymbol_mem_resetting_iff s.ctx.flags]
    refine ⟨he.accumulatedLength_of_resetting, fun _ hp hev => ?_, fun hj hp => ?_⟩
    · rw [← meaning_decodeInMode, hp] at he
      obtain ⟨hd, rfl⟩ := he.of_payload hev
      exact ⟨toNat_add_one_of_lt hd, hd, fun hwf => (memRead_afterPayload hwf _ _).trans (if_pos rfl)⟩
    · refine he.accumulatedLength_eq hj fun b hb => ?_
      obtain ⟨rfl, hmode, -⟩ := meaning_decodeSymbol_payload hb
      exact hp.resolve_left (not_not.2 hmode)
  · cases hk : lengthKnown s.ctx.flags with
    | false =>
      obtain ⟨-, ha, -⟩ := hinv.fresh hk
      simp [ha, BitVec.le_def]
    | true => exact hinv.len hk

/-- Settles O46: of the effects, only the resetting ones and an accepted LENGTH byte write the register. -/
theorem declaredLengthIsWrittenOnly : Obligations.DeclaredLengthIsWrittenOnly := by
  intro s t h
  have he := effect_of_step h
  rw [decodeSymbol_mem_resetting_iff s.ctx.flags]
  refine ⟨he.declaredLength_of_resetting, fun _ hl hev => ?_, fun hj hl => ?_, fun hinv => ?_, fun d hk => ?_⟩
  · rw [← meaning_decodeInMode, hl] at he
    obtain ⟨hb, rfl⟩ := he.of_length hev
    exact ⟨rfl, hb⟩
  · refine he.declaredLength_eq hj fun b hb => ?_
    obtain ⟨rfl, hmode, -⟩ := meaning_decodeSymbol_length hb
    exact hl.resolve_left (not_not.2 hmode)
  · exact ⟨hinv.cap.1, fun hk => (hinv.fresh hk).1⟩
  · refine exec_setDeclared (s := advance s) d hk (fun b hb => ?_) h
    obtain ⟨-, -, -, hk'⟩ := meaning_decodeSymbol_payload hb
    cases hk.symm.trans hk'

/-- Settles O47: each form named is run as IDLE, STRAY or LENGTH. -/
theorem nonStoringInstructionsFrame : Obligations.NonStoringInstructionsFrame := by
  intro i b s t h hi
  have he := effect_of_exec h
  obtain ⟨hp, hin⟩ := he.keeps
  rcases meaning_of_nonStoring hi with hm | hm | ⟨hm, hl⟩ <;> rw [hm] at he
  · cases he
    exact ⟨fun _ => rfl, rfl, rfl, rfl, fun _ => rfl, hp, hin⟩
  · cases he
    exact ⟨fun _ => rfl, rfl, rfl, rfl, fun _ => rfl, hp, hin⟩
  · cases he with
    | lengthRaises => exact ⟨fun _ => rfl, rfl, rfl, rfl, fun _ => rfl, hp, hin⟩
    | length =>
      refine ⟨fun _ => rfl, rfl, by simp, by simp, fun hc => ?_, hp, hin⟩
      rcases hc with rfl | rfl | ⟨hne, hs⟩
      · cases hm
      · cases hm
      · rcases hl with hl | hl
        · exact absurd hl hne
        · simp [hs] at hl

/-- Settles O48: each form named is run as STOP or PAYLOAD. -/
theorem storingInstructionsFrame : Obligations.StoringInstructionsFrame := by
  intro i b s t hb h hi
  have he := effect_of_exec h
  obtain ⟨hp, hin⟩ := he.keeps
  rcases meaning_of_storing hi with ⟨hm, hstop⟩ | ⟨hm, hstop⟩ <;> rw [hm] at he
  · have hflags : i ≠ .stop → i ≠ .byte 0x03 → t.ctx.flags = s.ctx.flags := fun h1 h2 =>
      absurd hstop (not_or.2 ⟨h1, h2⟩)
    cases he with
    | stopRaises => exact ⟨fun _ _ _ _ => rfl, rfl, rfl, rfl, fun _ => rfl, hflags, hp, hin⟩
    | stop =>
      refine ⟨?_, rfl, by simp, by simp, fun _ => rfl, hflags, hp, hin⟩
      rintro _ rfl j hj
      rw [memRead_afterStop hb.1, if_neg hj]
  · have hacc : i = .stop ∨ i = .byte 0x03 → t.ctx.accumulatedLength = s.ctx.accumulatedLength := fun h =>
      absurd h hstop
    cases he with
    | payloadRaises => exact ⟨fun _ _ _ _ => rfl, rfl, rfl, rfl, hacc, fun _ _ => rfl, hp, hin⟩
    | payload =>
      refine ⟨?_, rfl, rfl, rfl, hacc, fun _ _ => rfl, hp, hin⟩
      rintro _ rfl j hj
      rw [memRead_afterPayload hb.1, if_neg hj]

/-- Settles O57: agreement but for Stopped is kept by every instruction. -/
theorem outcomeDoesNotDependOnStopped : Obligations.OutcomeDoesNotDependOnStopped := fun i s => by
  obtain ⟨t, u, ht, hu, h⟩ := (agreeButStopped_flip s).exec i
  exact ⟨t, u, ht, hu, h.started, h.lengthKnown, h.declaredLength, h.accumulatedLength, h.buffer, h.ev⟩

/-- Settles O13. -/
theorem resetStateIsDefault : Obligations.ResetStateIsDefault :=
  ⟨fun _ => ⟨rfl, rfl, rfl, rfl, fun _ _ => rfl, Event.bits_none, rfl, rfl, rfl⟩, fun _ => ⟨rfl, rfl, rfl, rfl⟩⟩

/-- Settles O49. -/
theorem resettingInstructionsFrame : Obligations.ResettingInstructionsFrame := by
  refine ⟨fun i s t h => (effect_of_exec h).keeps, fun i s t h hi => ?_⟩
  rcases hi with rfl | rfl | rfl | rfl | rfl | rfl <;> cases h <;> exact ⟨rfl, rfl⟩

/-- Settles O51, for each state by the flag bits of each of the eight values. -/
theorem protocolStateOfFlags : Obligations.ProtocolStateOfFlags := by
  refine ⟨?_, ?_, ?_, ?_, ?_, ?_, ?_, ?_⟩ <;> intro p <;> cases p <;> decide

/-- Settles O52. -/
theorem portsShowTheRegisters : Obligations.PortsShowTheRegisters := by
  intro s
  obtain ⟨hd, hc⟩ := Event.bits_fields s.ev
  refine ⟨rfl, rfl, rfl, rfl, hd.symm, hc.symm, ?_⟩
  rw [hc]
  exact bne_iff_ne

end Sys2Proof.Proofs
end

section
/-! The buffer: its form after an instruction, what does not depend on it, and the slots its read port can name. -/

namespace Sys2Proof.Machine

open Safety

/-! The buffer's form (20_memory.md R37, R44). -/

/-- An empty buffer is canonical and lists no slot. -/
theorem invBuffer_of_empty {s : State} (h : s.ctx.buffer = []) : InvBuffer s := by
  simp [InvBuffer, Memory.wf, h]

/-- Every meaning keeps the buffer's form: the two that store do so below the capacity. -/
theorem Effect.invBuffer {s t : State} {j : Instr} (h : Effect s j t) (hb : InvBuffer s) : InvBuffer t := by
  have hstore (v : Byte) (ha : s.ctx.accumulatedLength ≤ s.params.lmax) :
      Memory.wf (bufWrite s.ctx.buffer (storeIndex s) v) ∧
        Memory.inRange s.params.capacity (bufWrite s.ctx.buffer (storeIndex s) v) :=
    ⟨bufWrite_wf hb.1 _ _, bufWrite_inRange hb.2 (index_lt_capacity (aboveLmax_false.2 ha))⟩
  cases h with
  | start | clear => exact invBuffer_of_empty rfl
  | stop _ _ _ hc => exact hstore _ hc
  | payload b hc _ => exact hstore b (BitVec.le_of_lt hc)
  | _ => exact hb

/-! What an instruction tests before it acts (20_memory.md R50). -/

section
variable (s : State) (m : Memory)

@[simp] theorem frameFull_setBuffer : frameFull (s.setBuffer m) = frameFull s := rfl
@[simp] theorem roomInBuffer_setBuffer : roomInBuffer (s.setBuffer m) = roomInBuffer s := rfl
@[simp] theorem roomInFrame_setBuffer : roomInFrame (s.setBuffer m) = roomInFrame s := rfl

end

/-- From two states that differ in the buffer alone, every instruction goes to two such states. -/
theorem exec_setBuffer (i : Instr) (s : State) (m : Memory) :
    ∃ t u, exec i s = .next t ∧ exec i (s.setBuffer m) = .next u ∧ u = t.setBuffer u.ctx.buffer := by
  rw [← exec_meaning i s, ← exec_meaning i (s.setBuffer m), State.setBuffer_flags]
  rcases meaning_cases s.ctx.flags i with h | h | h | h | ⟨b, h | h | h⟩ <;> rw [h]
  · exact ⟨_, _, rfl, rfl, rfl⟩
  · exact ⟨_, _, rfl, rfl, rfl⟩
  · exact ⟨_, _, rfl, rfl, rfl⟩
  · refine ⟨_, _, execStop_eq s, execStop_eq (s.setBuffer m), ?_⟩
    rw [State.setBuffer_flags, State.setBuffer_params, State.setBuffer_accumulatedLength, frameFull_setBuffer]
    split_ifs <;> rfl
  · exact ⟨_, _, rfl, rfl, rfl⟩
  · refine ⟨_, _, execLength_eq b s, execLength_eq b (s.setBuffer m), ?_⟩
    rw [State.setBuffer_params]
    split_ifs <;> rfl
  · refine ⟨_, _, execPayload_eq b s, execPayload_eq b (s.setBuffer m), ?_⟩
    rw [roomInBuffer_setBuffer, roomInFrame_setBuffer]
    split_ifs <;> rfl

/-! The read port (20_memory.md R41). -/

theorem rdData_of_lt {s : State} {a : BitVec s.params.addrWidth} (h : a.toNat < s.params.capacity) :
    rdData s a = memRead a.toNat s := if_pos h

theorem rdData_of_le {s : State} {a : BitVec s.params.addrWidth} (h : s.params.capacity ≤ a.toNat) :
    rdData s a = 0x00 := if_neg h.not_gt

theorem le_two_pow_ceilLog2 (n : Nat) : n ≤ 2 ^ ceilLog2 n := by
  unfold ceilLog2
  split_ifs with h
  · simpa using h
  · have : n - 1 < 2 ^ ((n - 1).log2 + 1) := Nat.lt_log2_self
    omega

/-- The `AW` bits of the read port's index can name every slot (00_scope.md R5). -/
theorem capacity_le_two_pow_addrWidth (p : Params) : p.capacity ≤ 2 ^ p.addrWidth :=
  (le_two_pow_ceilLog2 _).trans (Nat.pow_le_pow_right (by decide) (le_max_right _ _))

end Sys2Proof.Machine
end

section
/-! The obligations about the buffer. -/

namespace Sys2Proof.Proofs

open Machine Safety

/-- Settles O41, by the effect of each meaning. -/
theorem everyInstructionKeepsTheBufferForm : Obligations.EveryInstructionKeepsTheBufferForm :=
  fun _ _ _ hb h => (effect_of_exec h).invBuffer hb

/-- Settles O53: slot `i` is read at the index `i`, which fits in `AW` bits. -/
theorem readPortReadsEverySlot : Obligations.ReadPortReadsEverySlot := by
  intro s
  have hpos : 0 < s.params.capacity := by unfold Params.capacity; omega
  refine ⟨fun a ha => rdData_of_lt (by omega), fun a ha => rdData_of_le (by omega), fun i hi => ?_⟩
  have hfits : i < 2 ^ s.params.addrWidth := hi.trans_le (capacity_le_two_pow_addrWidth _)
  exact ⟨BitVec.ofNatLT i hfits, rfl, rdData_of_lt hi⟩

/-- Settles O56: the next states from the two buffers differ in the buffer alone. -/
theorem dispatchNeverReadsTheBuffer : Obligations.DispatchNeverReadsTheBuffer := fun i s m => by
  obtain ⟨t, u, ht, hu, h⟩ := exec_setBuffer i s m
  rw [h] at hu
  exact ⟨t, _, ht, hu, rfl, rfl, rfl, rfl⟩

end Sys2Proof.Proofs
end

section
/-! The encoder's word for each decoded word, and which symbols are one row. -/

namespace Sys2Proof

open Machine Safety

/-! Words. -/

/-- The encoder reads back a decoded byte: the ten DATA patterns keep their free bits (30_encoding.md R55). -/
theorem encode_decodeByte (v : Byte) : encode (decodeByte v) = .byte v := by revert v; decide

/-- A row whose lines are all fixed covers its own pattern alone. -/
theorem patByte_covers_iff (l : BitVec 3) : patByte.covers l = true ↔ l = patByte.pattern := by revert l; decide

/-- The rows of R54 leave IDLE for the lines that no other row covers. -/
theorem lines_eq_patIdle {l : BitVec 3} (hr : ¬patHwreset.covers l = true) (hc : ¬patReset.covers l = true)
    (hv : ¬patByte.covers l = true) : l = patIdle.pattern := by revert l; decide

theorem canonical_ctrl (l : BitVec 3) (v : Byte) :
    (InstrWord.ctrl l v).canonical =
      if patHwreset.covers l then .ctrl patHwreset.pattern 0x00
      else if patReset.covers l then .ctrl patReset.pattern 0x00
      else if patByte.covers l then .ctrl l v
      else .ctrl l 0x00 := rfl

/-- The encoder sets the lines that HWRESET and RESET leave free to 0, and the byte of all but BYTE (R54, R59). -/
theorem encode_decodeCtrl (l : BitVec 3) (v : Byte) : encode (decodeCtrl l v) = (InstrWord.ctrl l v).canonical := by
  rw [canonical_ctrl, decodeCtrl]
  split_ifs with hr hc hv
  · rfl
  · rfl
  · rw [(patByte_covers_iff l).1 hv]; rfl
  · rw [lines_eq_patIdle hr hc hv]; rfl

theorem decodeCtrl_wellFormed (l : BitVec 3) (v : Byte) : WellFormed (decodeCtrl l v) = true := by
  unfold decodeCtrl
  split_ifs <;> rfl

theorem patLength_covers_iff (m : BitVec 2) : patLength.covers m = true ↔ m = patLength.pattern := by revert m; decide

/-- The rows of R57 leave PAYLOAD for the mode that no other row covers. -/
theorem mode_eq_patPayload {m : BitVec 2} (hs : ¬patStray.covers m = true) (hl : ¬patLength.covers m = true) :
    m = patPayload.pattern := by revert m; decide

theorem canonical_dataMode (m : BitVec 2) (v : Byte) :
    (InstrWord.dataMode m v).canonical =
      if patStray.covers m then .dataMode patStray.pattern v else .dataMode m v := rfl

/-- The encoder sets LengthKnown, which STRAY leaves free, to 0 (R57). -/
theorem encode_decodeMode (m : BitVec 2) (v : Byte) :
    encode (decodeMode m v) = (InstrWord.dataMode m v).canonical := by
  rw [canonical_dataMode, decodeMode]
  split_ifs with hs hl
  · rfl
  · rw [(patLength_covers_iff m).1 hl]; rfl
  · rw [mode_eq_patPayload hs hl]; rfl

theorem decodeMode_wellFormed (m : BitVec 2) {v : Byte} (hv : isDataValue v = true) :
    WellFormed (decodeMode m v) = true := by
  rcases decodeMode_cases m v with h | h | h <;> rw [h] <;> exact hv

/-- A DATA_MODE word decodes iff its byte is a data byte (30_encoding.md section 7). -/
theorem decode_dataMode (m : BitVec 2) (v : Byte) :
    decode (.dataMode m v) = if isDataValue v then .ok (decodeMode m v) else .error (.notDataClass v) := rfl

/-- Decoding, then encoding: a well-formed instruction, and the word but for its free bits. -/
theorem encode_of_decode {w : InstrWord} {i : Instr} (h : decode w = .ok i) :
    WellFormed i = true ∧ encode i = w.canonical := by
  cases w with
  | byte v => cases h; exact ⟨decodeByte_wellFormed v, encode_decodeByte v⟩
  | ctrl l v => cases h; exact ⟨decodeCtrl_wellFormed l v, encode_decodeCtrl l v⟩
  | dataMode m v =>
    rw [decode_dataMode] at h
    split_ifs at h with hv
    cases h
    exact ⟨decodeMode_wellFormed m hv, encode_decodeMode m v⟩

/-- Encoding, then decoding, row by row. -/
theorem decode_encode {i : Instr} (h : WellFormed i = true) : decode (encode i) = .ok i := by
  cases i with
  | start => exact Laws.RoundTrip.start h
  | stop => exact Laws.RoundTrip.stop h
  | esc => exact Laws.RoundTrip.esc h
  | data0 b => exact Laws.RoundTrip.data0 b h
  | data1 b => exact Laws.RoundTrip.data1 b h
  | data2 b => exact Laws.RoundTrip.data2 b h
  | data3 b => exact Laws.RoundTrip.data3 b h
  | data4 b => exact Laws.RoundTrip.data4 b h
  | data5 b => exact Laws.RoundTrip.data5 b h
  | data6 b => exact Laws.RoundTrip.data6 b h
  | data7 b => exact Laws.RoundTrip.data7 b h
  | data8 b => exact Laws.RoundTrip.data8 b h
  | data9 b => exact Laws.RoundTrip.data9 b h
  | hwreset => exact Laws.RoundTrip.hwreset h
  | reset => exact Laws.RoundTrip.reset h
  | idle => exact Laws.RoundTrip.idle h
  | byte b => exact Laws.RoundTrip.byte b h
  | stray b => exact Laws.RoundTrip.stray b h
  | length b => exact Laws.RoundTrip.length b h
  | payload b => exact Laws.RoundTrip.payload b h

/-- A word with a control byte where a DATA byte has to stand is refused in every mode, so its free bit is not read. -/
theorem decode_canonical_of_error {w : InstrWord} {e : DecodeError} (h : decode w = .error e) :
    decode w.canonical = .error e := by
  cases w with
  | byte v => cases h
  | ctrl l v => cases h
  | dataMode m v =>
    rw [canonical_dataMode]
    split_ifs
    · rw [decode_dataMode] at h ⊢
      split_ifs at h ⊢
      exact h
    · exact h

/-- The free bits of a word are not read. -/
theorem decode_canonical (w : InstrWord) : decode w.canonical = decode w := by
  cases h : decode w with
  | error e => exact decode_canonical_of_error h
  | ok i =>
    obtain ⟨hwf, henc⟩ := encode_of_decode h
    rw [← henc, decode_encode hwf]

/-! Bytes. -/

/-- The DATA rows are given to the data bytes alone. -/
theorem isDataRow_decodeByte_iff (b : Byte) : IsDataRow (decodeByte b) b ↔ isDataValue b = true := by
  refine ⟨fun h => ?_, fun h => by simpa [IsDataRow] using decodeByte_data h⟩
  rcases byte_class b with rfl | rfl | rfl | hb
  case inr.inr.inr => exact hb
  all_goals exact absurd h (by unfold IsDataRow; decide)

/-- The three control rows are given to their own byte alone. -/
theorem decodeByte_control_iff (b : Byte) :
    (decodeByte b = .start ↔ b = 0x02) ∧ (decodeByte b = .stop ↔ b = 0x03) ∧ (decodeByte b = .esc ↔ b = 0x10) := by
  revert b; decide

/-- The patterns of R55 are disjoint and cover every byte. -/
theorem bytePatterns_partition (b : Byte) : (bytePatterns.filter fun p => p.covers b).length = 1 := by
  revert b; decide

/-- One DATA pattern covers a data byte, and none a control byte. -/
theorem dataPatterns_count (b : Byte) :
    (dataPatterns.filter fun p => p.covers b).length = if isDataValue b = true then 1 else 0 := by
  revert b; decide

/-- The match and mask columns of the control rows against their values (R55). -/
theorem control_covers_iff (b : Byte) :
    (patStart.covers b = true ↔ b = 0x02) ∧ (patStop.covers b = true ↔ b = 0x03) ∧
      (patEsc.covers b = true ↔ b = 0x10) := by
  revert b; decide

/-- The match and mask columns of the DATA rows below 0x12 against their values (R55). -/
theorem data_covers_iff_low (b : Byte) :
    (patData0.covers b = true ↔ b = 0x00 ∨ b = 0x01) ∧ (patData1.covers b = true ↔ 0x04 ≤ b ∧ b ≤ 0x07) ∧
      (patData2.covers b = true ↔ 0x08 ≤ b ∧ b ≤ 0x0F) ∧ (patData3.covers b = true ↔ b = 0x11) := by
  revert b; decide

/-- The match and mask columns of the DATA rows from 0x12 on against their values (R55). -/
theorem data_covers_iff_high (b : Byte) :
    (patData4.covers b = true ↔ b = 0x12 ∨ b = 0x13) ∧ (patData5.covers b = true ↔ 0x14 ≤ b ∧ b ≤ 0x17) ∧
      (patData6.covers b = true ↔ 0x18 ≤ b ∧ b ≤ 0x1F) ∧ (patData7.covers b = true ↔ 0x20 ≤ b ∧ b ≤ 0x3F) ∧
      (patData8.covers b = true ↔ 0x40 ≤ b ∧ b ≤ 0x7F) ∧ (patData9.covers b = true ↔ 0x80 ≤ b) := by
  revert b; decide

/-! Symbols. -/

/-- The mode selects among the rows of a data byte alone (R57). -/
theorem decodeInMode_control (m : BitVec 2) {b : Byte} (h : isDataValue b = false) :
    decodeInMode m (Symbol.ofByte b) = decodeByte b := by
  simp [decodeInMode, h]

/-- Where no byte is accepted, the byte is not read (R59). -/
theorem decodeSymbol_inByte_of_not_isByte {x : Symbol} (b : Byte) (h : x.isByte = false) :
    decodeSymbol { x with inByte := b } = decodeSymbol x := by
  obtain ⟨r, c, v, y⟩ := x
  have hlines : r = false → c = false → v = false := by simpa [isByte_eq] using h
  simp only [decodeSymbol_eq]
  split_ifs with hr hc hv
  · rfl
  · rfl
  · exact absurd (hlines (by simpa using hr) (by simpa using hc)) (by simp [hv])
  · rfl

end Sys2Proof
end

section
/-! The obligations about the words, the bytes and the symbols. -/

namespace Sys2Proof.Proofs

open Machine Safety

/-- Settles O1, row by row. -/
theorem decodeOfEncodeIsIdentity : Obligations.DecodeOfEncodeIsIdentity := fun _ h => decode_encode h

/-- Settles O2. Two words of one instruction have its word as their canonical form. -/
theorem encodeOfDecodeIsCanonicalWord : Obligations.EncodeOfDecodeIsCanonicalWord :=
  ⟨fun _ _ h => encode_of_decode h, decode_canonical,
    fun _ _ _ hv hw => (encode_of_decode hv).2.symm.trans (encode_of_decode hw).2⟩

/-- Settles O7: both levels of the decode have one meaning. -/
theorem stepRunsTheSecondLevelDecode : Obligations.StepRunsTheSecondLevelDecode := by
  refine ⟨fun s x rest h => ?_, fun s b hb => ⟨fun hs => ?_, fun hs hk => ?_, fun hs hk => ?_⟩,
    fun m n b hb => ?_, by decide⟩
  · calc step s = exec (decodeSymbol x) (s.setInput rest) := step_cons h
      _ = exec (meaning s.ctx.flags (decodeSymbol x)) (s.setInput rest) := (exec_meaning _ (s.setInput rest)).symm
      _ = exec (meaning s.ctx.flags (decodeInMode (modeBits s.ctx.flags) x)) (s.setInput rest) := by
        rw [meaning_decodeInMode]
      _ = exec (decodeInMode (modeBits s.ctx.flags) x) (s.setInput rest) := exec_meaning _ (s.setInput rest)
  · rw [decodeInMode_data _ hb, decodeMode_of_not_started b hs]
  · rw [decodeInMode_data _ hb, decodeMode_of_awaiting b hs hk]
  · rw [decodeInMode_data _ hb, decodeMode_of_lengthKnown b hs hk]
  · rw [decodeInMode_control m hb, decodeInMode_control n hb]

/-- Settles O3. -/
theorem everyByteHasOneClass : Obligations.EveryByteHasOneClass := by
  intro b
  obtain ⟨hstart, hstop, hesc⟩ := control_covers_iff b
  obtain ⟨h0, h1, h2, h3⟩ := data_covers_iff_low b
  obtain ⟨h4, h5, h6, h7, h8, h9⟩ := data_covers_iff_high b
  obtain ⟨dstart, dstop, desc⟩ := decodeByte_control_iff b
  have hcount : (dataPatterns.filter fun p => p.covers b).length = 1 ↔ isDataValue b = true := by
    rw [dataPatterns_count]
    split_ifs with hb <;> simp [hb]
  exact ⟨bytePatterns_partition b, hstart, hstop, hesc, hcount.trans (isDataValue_iff b), h0, h1, h2, h3, h4, h5, h6, h7,
    h8, h9, dstart, dstop, desc, (isDataRow_decodeByte_iff b).trans (isDataValue_iff b)⟩

/-- Settles O4, by running the decoder on each word. -/
theorem writtenWordsDecode : Obligations.WrittenWordsDecode :=
  ⟨rfl, rfl, rfl, rfl, rfl, rfl, rfl, rfl, rfl, rfl, rfl, rfl, rfl, rfl⟩

/-- Settles O5. -/
theorem controlValuesAreNeverData : Obligations.ControlValuesAreNeverData := by
  refine fun mode => ⟨decodeInMode_control mode rfl, decodeInMode_control mode rfl, decodeInMode_control mode rfl,
    fun b h2 h3 h10 => ?_⟩
  rw [decodeInMode_data mode ((isDataValue_iff b).2 ⟨h2, h3, h10⟩)]
  exact decodeMode_cases mode b

/-- Settles O6. Taking a symbol off an empty list leaves the state as it is. -/
theorem stepRunsTheDecodedSymbol : Obligations.StepRunsTheDecodedSymbol := by
  refine ⟨fun _ _ _ => step_cons, fun s h => ?_⟩
  have hfetch : fetch s = Symbol.nothing := by rw [fetch, h]; rfl
  have hadvance : advance s = s := by
    rw [advance, h]
    exact congrArg s.setInput h.symm
  rw [step, hfetch, hadvance, decodeSymbol_nothing]

/-- Settles O9. -/
theorem byteIsIgnoredWhenNotValid : Obligations.ByteIsIgnoredWhenNotValid := by
  intro s x b rest h
  have hx : x.isByte = false := by
    rw [isByte_eq]
    rcases h with h | h | h <;> simp [h]
  have hstep : ∀ y : Symbol, step { s with input := y :: rest } = exec (decodeSymbol y) (s.setInput rest) :=
    fun _ => step_cons rfl
  rw [hstep, hstep, decodeSymbol_inByte_of_not_isByte b hx]

end Sys2Proof.Proofs
end

section
/-! The meanings and the table of 42_context_ops.md R88, and runs of symbols. -/

namespace Sys2Proof.Machine

open Safety

/-! The rows of the table. -/

/-- The rows of 0x03. -/
theorem process_stop (p : Params) (c : Context) :
    process p c 0x03 =
      if started c.flags = false then (c, .err .missingStart)
      else if lengthKnown c.flags = false then (c, .err .notReady)
      else if c.accumulatedLength ≠ c.declaredLength then (c, .err .lengthMismatch)
      else if p.lmax < c.accumulatedLength then (c, .err .bufferOverflow)
      else ({ c with flags := setStopped c.flags, buffer := bufWrite c.buffer c.accumulatedLength.toNat p.term },
        .done) := by
  cases hs : started c.flags <;> cases hk : lengthKnown c.flags <;> simp [process, hs, hk, setStopped]

/-- The rows of a data byte. -/
theorem process_data (p : Params) (c : Context) {b : Byte} (hb : isDataValue b = true) :
    process p c b =
      if started c.flags = false then (c, .err .missingStart)
      else if lengthKnown c.flags = false then
        (if p.lmax < b then (c, .err .bufferOverflow)
         else ({ c with flags := setLengthKnown c.flags, declaredLength := b }, .none))
      else
        (if c.accumulatedLength < p.lmax ∧ c.accumulatedLength < c.declaredLength then
          ({ c with accumulatedLength := c.accumulatedLength + 1,
                    buffer := bufWrite c.buffer c.accumulatedLength.toNat b }, .none)
         else (c, .err .bufferOverflow)) := by
  obtain ⟨h2, h3, h10⟩ := (isDataValue_iff b).1 hb
  rw [process, if_neg h2, if_neg h10, if_neg h3]
  have hroom : (p.lmax ≤ c.accumulatedLength ∨ c.declaredLength ≤ c.accumulatedLength) ↔
      ¬(c.accumulatedLength < p.lmax ∧ c.accumulatedLength < c.declaredLength) := by
    rw [not_and_or, BitVec.not_lt, BitVec.not_lt]
  simp only [hroom, ite_not]
  cases started c.flags <;> cases lengthKnown c.flags <;> rfl

/-! One symbol. -/

/-- The state after an accepted byte, by the table alone. -/
def afterByte (b : Byte) (s : State) : State :=
  (s.setCtx (process s.params s.ctx b).1).setEv (process s.params s.ctx b).2

/-- The meanings, written from the pseudocode, are the table (R88). -/
theorem exec_decodeByte_eq_process (b : Byte) (s : State) : exec (decodeByte b) s = .next (afterByte b s) := by
  rcases byte_class b with rfl | rfl | rfl | hb
  · rfl
  · rfl
  · have hstop : exec (decodeByte 0x03) s = _ := execStop_eq s
    rw [hstop, afterByte, process_stop]
    simp only [frameFull_false, aboveLmax_true]
    split_ifs <;> rfl
  · rw [exec_decodeByte_data hb, dataDispatch_eq, afterByte, process_data _ _ hb]
    simp only [aboveLmax_true, roomInBuffer_iff, roomInFrame_iff]
    split_ifs <;> rfl

/-- What one symbol does to the context (70_reset_and_hazards.md R129). -/
theorem step_contextAfter {s : State} {x : Symbol} {rest : List Symbol} (h : s.input = x :: rest) :
    ∃ t, step s = .next t ∧ t.ctx = contextAfter s.params s.ctx x ∧ t.params = s.params ∧ t.input = rest := by
  rw [step_cons h, decodeSymbol_eq, contextAfter]
  cases x.rst <;> cases x.ctxReset <;> cases x.inValid
  case false.false.true => exact ⟨_, exec_decodeByte_eq_process _ _, rfl, rfl, rfl⟩
  all_goals exact ⟨_, rfl, rfl, rfl, rfl⟩

/-! Runs. -/

/-- The context after any symbols. -/
theorem run_contextAfter {xs : List Symbol} {s : State} {rest : List Symbol} (h : s.input = xs ++ rest) :
    ∃ t, run xs.length s = .next t ∧ t.ctx = xs.foldl (contextAfter s.params) s.ctx ∧ t.params = s.params ∧
      t.input = rest := by
  induction xs generalizing s with
  | nil => exact ⟨s, rfl, rfl, rfl, h⟩
  | cons x xs ih =>
    obtain ⟨t, hstep, hctx, hparams, hinput⟩ := step_contextAfter h
    obtain ⟨u, hrun, hu, hup, hui⟩ := ih hinput
    refine ⟨u, (run_succ hstep).trans hrun, ?_, hup.trans hparams, hui⟩
    rw [hu, hctx, hparams, List.foldl_cons]

/-- The bytes alone, presented at consecutive edges, are folded by `process`. -/
theorem foldl_contextAfter_ofByte (p : Params) (c : Context) (bytes : List Byte) :
    (bytes.map Symbol.ofByte).foldl (contextAfter p) c = processAll p c bytes :=
  List.foldl_map

end Sys2Proof.Machine
end

section
/-! The obligation about the operation of an edge. -/

namespace Sys2Proof.Proofs

open Machine Safety

/-- Settles O8: the priority is the decoder's, and each accepted byte one application of `process`. -/
theorem oneOperationPerEdge : Obligations.OneOperationPerEdge := by
  refine ⟨fun s x rest h => ?_, fun s bytes rest h => ?_⟩
  · rw [step_cons h, decodeSymbol_eq]
    refine ⟨fun hr => ?_, fun hr hc => ?_, fun hr hc hv => ?_, fun hr hc hv => ?_⟩
    · rw [if_pos hr]; rfl
    · rw [if_neg (by simp [hr]), if_pos hc]; rfl
    · rw [if_neg (by simp [hr]), if_neg (by simp [hc]), if_pos hv, exec_decodeByte_eq_process]; rfl
    · rw [if_neg (by simp [hr]), if_neg (by simp [hc]), if_neg (by simp [hv])]; rfl
  · simpa only [List.length_map, foldl_contextAfter_ofByte] using run_contextAfter h

end Sys2Proof.Proofs
end

section
/-! A byte sequence in the form of a frame (30_encoding.md R61, R62), byte by byte in its role. -/

namespace Sys2Proof.Machine

open Safety

/-! What one byte of the sequence adds to the lists of operations and events. -/

/-- The operations of a run whose first symbol is a byte. -/
theorem operations_ofByte {s t : State} {b : Byte} {rest : List Symbol} (k : Nat)
    (h : s.input = Symbol.ofByte b :: rest) (hstep : step s = .next t) :
    operations (k + 1) s = decodeInMode (modeBits s.ctx.flags) (Symbol.ofByte b) :: operations k t := by
  rw [operations_succ hstep, fetch, h, List.headD_cons]

/-- A byte that is decoded as a DATA_MODE row is a data byte, in any mode (30_encoding.md R56). -/
theorem isDataValue_of_decodeInMode {m : BitVec 2} {b c : Byte}
    (h : decodeInMode m (Symbol.ofByte b) = .length c ∨ decodeInMode m (Symbol.ofByte b) = .payload c) :
    isDataValue b = true := by
  by_contra hb
  rw [decodeInMode_control m (by simpa using hb)] at h
  rcases byte_class b with rfl | rfl | rfl | hd
  case inr.inr.inr => exact hb hd
  all_goals rcases h with h | h <;> cases h

@[simp] theorem afterStart_params (s : State) : (afterStart s).params = s.params := rfl

variable {s : State} {b : Byte} {rest : List Symbol}

/-- START is accepted in every state (40_control_bytes.md R71). -/
theorem step_start (h : s.input = Symbol.ofByte 0x02 :: rest) : step s = .next (afterStart (s.setInput rest)) := by
  rw [step_cons h, decodeSymbol_ofByte]
  rfl

/-- All that a data byte can do while a length is awaited (41_data_bytes.md R78). -/
theorem step_data_of_awaiting (h : s.input = Symbol.ofByte b :: rest) (hb : isDataValue b = true)
    (hs : started s.ctx.flags = true) (hk : lengthKnown s.ctx.flags = false) :
    step s = .next (
      if s.params.lmax < b then (s.setInput rest).setEv (.err .bufferOverflow) else afterLength b (s.setInput rest)) := by
  rw [step_cons h, decodeSymbol_ofByte, exec_decodeByte_data hb, dataDispatch_eq]
  simp [hs, hk]

/-- A data byte with room in the buffer and in the frame is accepted as payload (41_data_bytes.md R79). -/
theorem step_data_of_room (h : s.input = Symbol.ofByte b :: rest) (hb : isDataValue b = true)
    (hs : started s.ctx.flags = true) (hk : lengthKnown s.ctx.flags = true)
    (hc : s.ctx.accumulatedLength < s.params.lmax) (hd : s.ctx.accumulatedLength < s.ctx.declaredLength) :
    step s = .next (afterPayload b (s.setInput rest)) := by
  rw [step_cons h, decodeSymbol_ofByte, exec_decodeByte_data hb, dataDispatch_eq]
  simp [hs, hk, hc, hd]

/-- STOP completes a full frame (40_control_bytes.md R73). -/
theorem step_stop_of_full (h : s.input = Symbol.ofByte 0x03 :: rest)
    (hs : started s.ctx.flags = true) (hk : lengthKnown s.ctx.flags = true)
    (hd : s.ctx.accumulatedLength = s.ctx.declaredLength) (hc : s.ctx.accumulatedLength ≤ s.params.lmax) :
    step s = .next (afterStop (s.setInput rest)) := by
  rw [step_cons h, decodeSymbol_ofByte]
  refine (execStop_eq _).trans ?_
  simp [hs, hk, ← hd, hc]

/-! The frame after its length byte. -/

/-- The remaining bytes of a frame whose length is known are parsed in their roles, with `Done` at the last alone, iff
each payload byte is a data byte. -/
theorem parsed_body_iff {payload : List Byte}
    (h : s.input = payload.map Symbol.ofByte ++ Symbol.ofByte 0x03 :: rest)
    (hs : started s.ctx.flags = true) (hk : lengthKnown s.ctx.flags = true)
    (hn : s.ctx.accumulatedLength.toNat + payload.length = s.ctx.declaredLength.toNat)
    (hc : s.ctx.declaredLength ≤ s.params.lmax) :
    (operations (payload.length + 1) s = payload.map .payload ++ [.stop] ∧
        events (payload.length + 1) s = List.replicate payload.length .none ++ [.done]) ↔
      ∀ b ∈ payload, isDataValue b = true := by
  induction payload generalizing s with
  | nil =>
    have hd : s.ctx.accumulatedLength = s.ctx.declaredLength := BitVec.eq_of_toNat_eq hn
    have hstep := step_stop_of_full h hs hk hd (hd ▸ hc)
    refine iff_of_true ⟨?_, ?_⟩ (by simp)
    · rw [List.length_nil, operations_ofByte 0 h hstep, decodeInMode_control _ rfl]
      rfl
    · rw [List.length_nil, events_succ hstep]
      rfl
  | cons b payload ih =>
    rw [List.length_cons] at hn ⊢
    by_cases hb : isDataValue b = true
    · have hd : s.ctx.accumulatedLength < s.ctx.declaredLength := by rw [BitVec.lt_def]; omega
      have hstep := step_data_of_room h hb hs hk (by bv_omega) hd
      have hrest := ih (s := afterPayload b (s.setInput _)) rfl hs hk
        (by rw [afterPayload_accumulatedLength, State.setInput_accumulatedLength, toNat_add_one_of_lt hd]
            simp only [afterPayload_declaredLength, State.setInput_declaredLength]
            omega)
        hc
      rw [operations_ofByte _ h hstep, events_succ hstep, decodeInMode_data _ hb,
        decodeMode_of_lengthKnown b hs hk]
      simpa [List.replicate_succ, hb] using hrest
    · refine iff_of_false (fun ⟨hop, _⟩ => hb ?_) (fun hall => hb (hall b (by simp)))
      obtain ⟨t, hstep, -⟩ := step_move s
      rw [operations_ofByte _ h hstep] at hop
      exact isDataValue_of_decodeInMode (.inr (List.cons.inj hop).1)

/-! The frame after START. -/

/-- The bytes of a frame after its START are parsed in their roles iff the length fits and all of them but the STOP are
data bytes. -/
theorem parsed_length_iff {L : Byte} {payload : List Byte}
    (h : s.input = Symbol.ofByte L :: (payload.map Symbol.ofByte ++ Symbol.ofByte 0x03 :: rest))
    (hs : started s.ctx.flags = true) (hk : lengthKnown s.ctx.flags = false) (ha : s.ctx.accumulatedLength = 0)
    (hn : payload.length = L.toNat) :
    (operations (payload.length + 2) s = .length L :: (payload.map .payload ++ [.stop]) ∧
        events (payload.length + 2) s = .none :: (List.replicate payload.length .none ++ [.done])) ↔
      L ≤ s.params.lmax ∧ isDataValue L = true ∧ ∀ b ∈ payload, isDataValue b = true := by
  by_cases hL : isDataValue L = true
  · have hstep := step_data_of_awaiting h hL hs hk
    by_cases hl : s.params.lmax < L
    · rw [if_pos hl] at hstep
      refine iff_of_false (fun ⟨_, hev⟩ => ?_) (fun hall => BitVec.not_lt.2 hall.1 hl)
      rw [events_succ hstep] at hev
      cases hev
    · rw [if_neg hl] at hstep
      have hbody := parsed_body_iff (s := afterLength L (s.setInput _)) (payload := payload) (rest := rest) rfl
        (by simpa using hs) (by simp) (by simp [ha, hn]) (BitVec.not_lt.1 hl)
      rw [operations_ofByte _ h hstep, events_succ hstep, decodeInMode_data _ hL, decodeMode_of_awaiting L hs hk]
      simpa [hL, BitVec.not_lt.1 hl] using hbody
  · refine iff_of_false (fun ⟨hop, _⟩ => hL ?_) (fun hall => hL hall.2.1)
    obtain ⟨t, hstep, -⟩ := step_move s
    rw [operations_ofByte _ h hstep] at hop
    exact isDataValue_of_decodeInMode (.inl (List.cons.inj hop).1)

/-- R62's conditions (b) and (c) say that the length and the payload are data bytes. -/
theorem representable_iff (p : Params) (L : Byte) (payload : List Byte) :
    Representable p L payload ↔ L ≤ p.lmax ∧ isDataValue L = true ∧ ∀ b ∈ payload, isDataValue b = true := by
  simp only [Representable, isDataValue_iff]

end Sys2Proof.Machine
end

section
/-! The obligation about frames on the wire. -/

namespace Sys2Proof.Proofs

open Machine Safety

/-- Settles O38: START is accepted in every state, and the bytes after it are parsed in their roles iff the frame is
representable. -/
theorem parsedAsAFrameIffRepresentable : Obligations.ParsedAsAFrameIffRepresentable := by
  intro s L payload rest hn h
  have hinput : s.input = Symbol.ofByte 0x02 :: Symbol.ofByte L ::
      (payload.map Symbol.ofByte ++ Symbol.ofByte 0x03 :: rest) := by
    simpa [wireFrame] using h
  have hstep := step_start hinput
  have hrest := parsed_length_iff (s := afterStart (s.setInput _)) (L := L) (payload := payload) (rest := rest)
    rfl started_startedOnly lengthKnown_startedOnly rfl hn
  rw [representable_iff, ← hn, operations_ofByte _ hinput hstep, events_succ hstep, decodeInMode_control _ rfl,
    decodeByte_start]
  simpa [List.replicate_succ] using hrest

end Sys2Proof.Proofs
end

section
/-! The control bytes: STOP case by case (40_control_bytes.md R73, R74), and a data byte after ESC (R72). -/

namespace Sys2Proof.Safety

open Machine

/-- In FrameComplete all three flags are set (10_state.md R26). -/
theorem Inv.flags_of_stopped {s : State} (h : Inv s) (hst : stopped s.ctx.flags = true) :
    s.ctx.flags = 0b111 := by
  rcases h.flags with hf | hf | hf | hf
  case inr.inr.inr => exact hf
  all_goals rw [hf] at hst; exact absurd hst (by decide)

end Sys2Proof.Safety

namespace Sys2Proof.Machine

open Safety

/-! STOP, with what decides each case. -/

variable {s : State}

theorem execStop_of_not_started (hs : started s.ctx.flags = false) :
    execStop s = .next (s.setEv (.err .missingStart)) := by
  rw [execStop_eq, if_pos hs]

theorem execStop_of_awaiting (hs : started s.ctx.flags = true) (hk : lengthKnown s.ctx.flags = false) :
    execStop s = .next (s.setEv (.err .notReady)) := by
  rw [execStop_of_not_lengthKnown hk, if_neg (by simp [hs])]

/-- With both flags set, the length and then the bound decide. -/
theorem execStop_of_lengthKnown (hs : started s.ctx.flags = true) (hk : lengthKnown s.ctx.flags = true) :
    execStop s = .next (
      if s.ctx.accumulatedLength ≠ s.ctx.declaredLength then s.setEv (.err .lengthMismatch)
      else if s.params.lmax < s.ctx.accumulatedLength then s.setEv (.err .bufferOverflow)
      else afterStop s) := by
  rw [execStop_eq, if_neg (by simp [hs]), if_neg (by simp [hk])]
  simp only [frameFull_false, aboveLmax_true]

theorem execStop_of_mismatch (hs : started s.ctx.flags = true) (hk : lengthKnown s.ctx.flags = true)
    (hd : s.ctx.accumulatedLength ≠ s.ctx.declaredLength) : execStop s = .next (s.setEv (.err .lengthMismatch)) := by
  rw [execStop_of_lengthKnown hs hk, if_pos hd]

theorem execStop_of_overflow (hs : started s.ctx.flags = true) (hk : lengthKnown s.ctx.flags = true)
    (hd : s.ctx.accumulatedLength = s.ctx.declaredLength) (hc : s.params.lmax < s.ctx.accumulatedLength) :
    execStop s = .next (s.setEv (.err .bufferOverflow)) := by
  rw [execStop_of_lengthKnown hs hk, if_neg (not_not.2 hd), if_pos hc]

theorem execStop_of_full (hs : started s.ctx.flags = true) (hk : lengthKnown s.ctx.flags = true)
    (hd : s.ctx.accumulatedLength = s.ctx.declaredLength) (hc : s.ctx.accumulatedLength ≤ s.params.lmax) :
    execStop s = .next (afterStop s) := by
  rw [execStop_of_lengthKnown hs hk, if_neg (not_not.2 hd), if_neg (BitVec.not_lt.2 hc)]

/-! STOP once more in FrameComplete. -/

/-- The frame meets STOP's checks again, and TERM is written over TERM. -/
theorem execStop_of_stopped (h : Inv s) (hst : stopped s.ctx.flags = true) :
    execStop s = .next (s.setEv .done) := by
  have hf := h.flags_of_stopped hst
  obtain ⟨hd, hterm⟩ := h.stop hst
  have hctx : (afterStop s).ctx = s.ctx := afterStop_ctx_of_stopped h.buffer.1 hst hterm
  calc execStop s
      = .next (afterStop s) := execStop_of_full (by rw [hf]; rfl) (by rw [hf]; rfl) hd h.cap.2
    _ = .next ((s.setCtx (afterStop s).ctx).setEv .done) := rfl
    _ = .next (s.setEv .done) := by rw [hctx]; rfl

/-! A data byte outside a frame. -/

/-- With Started clear, every data byte is a stray one (41_data_bytes.md R80). -/
theorem exec_decodeByte_of_not_started {b : Byte} (hb : isDataValue b = true) (hs : started s.ctx.flags = false) :
    exec (decodeByte b) s = .next (s.setEv (.err .missingStart)) := by
  rw [exec_decodeByte_data hb, dataDispatch_eq, if_pos hs]

end Sys2Proof.Machine
end

section
/-! The obligations about the control bytes. -/

namespace Sys2Proof.Proofs

open Machine Safety

/-- Settles O19, by the cases of STOP; the byte is stored at `storeIndex`. -/
theorem stopOutcome : Obligations.StopOutcome := by
  refine ⟨decodeByte_stop, execByte_eq 0x03, fun _ => execStop_of_not_started, fun _ => execStop_of_awaiting,
    fun _ => execStop_of_mismatch, fun _ => execStop_of_overflow, fun s hm hs hk hd hc => ?_⟩
  have hcomplete : inState .frameComplete (afterStop s).ctx.flags = true := stopped_setStopped s.ctx.flags
  have hterm : memRead (storeIndex s) (afterStop s) = s.params.term := by rw [memRead_afterStop hm, if_pos rfl]
  have hframe : ∀ i, i ≠ storeIndex s → memRead i (afterStop s) = memRead i s := fun i hi => by
    rw [memRead_afterStop hm, if_neg hi]
  exact ⟨afterStop s, execStop_of_full hs hk hd hc, rfl, hcomplete, rfl, rfl, hterm, hframe, rfl, rfl, rfl⟩

/-- Settles O20. -/
theorem stopAgainSucceeds : Obligations.StopAgainSucceeds := fun _ => execStop_of_stopped

/-- Settles O17. -/
theorem startBeginsAFreshFrame : Obligations.StartBeginsAFreshFrame :=
  ⟨decodeByte_start, fun s => ⟨execStart_eq s, execByte_eq 0x02 s, memRead_afterStart s⟩, rfl⟩

/-- Settles O18: ESC, RESET and HWRESET all go to `afterClear`, where Started is clear. -/
theorem escAborts : Obligations.EscAborts := by
  refine ⟨decodeByte_esc, fun s => ⟨execEsc_eq s, execByte_eq 0x10 s, ?_, ?_, fun b hb => ?_⟩, rfl, bufRead_nil⟩
  · exact (execEsc_eq s).trans (execReset_eq s).symm
  · exact (execEsc_eq s).trans (execHwreset_eq s).symm
  · exact exec_decodeByte_of_not_started (s := afterClear s) hb started_noFlags

end Sys2Proof.Proofs
end

section
/-! The data bytes: the dispatch of 41_data_bytes.md R77, LENGTH and PAYLOAD with what decides each case (R78, R79), and
runs of stray bytes (R80). -/

namespace Sys2Proof.Machine

open Safety

/-! The dispatch. -/

variable {i : Instr} {b : Byte} {s : State}

theorem dataDispatch_of_not_started (b : Byte) (hs : started s.ctx.flags = false) :
    dataDispatch b s = execStray b s := if_pos hs

theorem dataDispatch_of_awaiting (b : Byte) (hs : started s.ctx.flags = true) (hk : lengthKnown s.ctx.flags = false) :
    dataDispatch b s = execLength b s := by
  rw [dataDispatch, if_neg (by simp [hs]), if_pos hk]

theorem dataDispatch_of_lengthKnown (b : Byte) (hs : started s.ctx.flags = true)
    (hk : lengthKnown s.ctx.flags = true) : dataDispatch b s = execPayload b s := by
  rw [dataDispatch, if_neg (by simp [hs]), if_neg (by simp [hk])]

/-- The rows that leave a data byte's role open, BYTE among them (42_context_ops.md R88), run the dispatch. -/
theorem exec_eq_dataDispatch (hb : isDataValue b = true) (h : IsDataRow i b ∨ i = .byte b) (s : State) :
    exec i s = dataDispatch b s := by
  rcases h with h | rfl
  · exact exec_dataRow h s
  · exact (execByte_eq b s).trans (exec_decodeByte_data hb s)

/-! LENGTH. -/

theorem execLength_of_le (h : b ≤ s.params.lmax) : execLength b s = .next (afterLength b s) := by
  rw [execLength_eq, if_neg (by simpa using h)]

theorem execLength_of_lt (h : s.params.lmax < b) : execLength b s = .next (s.setEv (.err .bufferOverflow)) := by
  rw [execLength_eq, if_pos (aboveLmax_true.2 h)]

/-! PAYLOAD. -/

theorem execPayload_of_room (b : Byte) (hc : s.ctx.accumulatedLength < s.params.lmax)
    (hd : s.ctx.accumulatedLength < s.ctx.declaredLength) : execPayload b s = .next (afterPayload b s) := by
  rw [execPayload_eq, if_pos ⟨roomInBuffer_iff.2 hc, roomInFrame_iff.2 hd⟩]

/-- The two checks of PAYLOAD raise the same error (90_conflicts.md C2). -/
theorem execPayload_of_full (b : Byte)
    (h : s.params.lmax ≤ s.ctx.accumulatedLength ∨ s.ctx.declaredLength ≤ s.ctx.accumulatedLength) :
    execPayload b s = .next (s.setEv (.err .bufferOverflow)) := by
  have hroom : ¬(roomInBuffer s = true ∧ roomInFrame s = true) := by
    rw [roomInBuffer_iff, roomInFrame_iff, not_and_or, BitVec.not_lt, BitVec.not_lt]
    exact h
  rw [execPayload_eq, if_neg hroom]

theorem memRead_storeIndex_afterPayload (hm : Memory.wf s.ctx.buffer) (b : Byte) :
    memRead (storeIndex s) (afterPayload b s) = b := by
  rw [memRead_afterPayload hm, if_pos rfl]

theorem memRead_afterPayload_of_ne {j : Nat} (hm : Memory.wf s.ctx.buffer) (b : Byte) (hj : j ≠ storeIndex s) :
    memRead j (afterPayload b s) = memRead j s := by
  rw [memRead_afterPayload hm, if_neg hj]

/-! Stray bytes. -/

theorem step_data_of_not_started {rest : List Symbol} (h : s.input = Symbol.ofByte b :: rest)
    (hb : isDataValue b = true) (hs : started s.ctx.flags = false) :
    step s = .next ((s.setInput rest).setEv (.err .missingStart)) := by
  rw [step_cons h, decodeSymbol_ofByte]
  exact exec_decodeByte_of_not_started hb hs

/-- A stray byte leaves the context, Started among it, so that the next data byte is stray again. -/
theorem events_run_of_not_started {bytes : List Byte} {rest : List Symbol} (hs : started s.ctx.flags = false)
    (hall : ∀ b ∈ bytes, isDataValue b = true) (h : s.input = bytes.map Symbol.ofByte ++ rest) :
    events bytes.length s = List.replicate bytes.length (.err .missingStart) ∧
      ∃ t, run bytes.length s = .next t ∧ t.ctx = s.ctx ∧ t.input = rest := by
  induction bytes generalizing s with
  | nil => exact ⟨rfl, s, rfl, rfl, h⟩
  | cons b bytes ih =>
    obtain ⟨hb, hbytes⟩ := List.forall_mem_cons.1 hall
    have hstep := step_data_of_not_started (rest := bytes.map Symbol.ofByte ++ rest) h hb hs
    obtain ⟨hev, t, hrun, hctx, hinput⟩ :=
      ih (s := (s.setInput (bytes.map Symbol.ofByte ++ rest)).setEv (.err .missingStart)) hs hbytes rfl
    exact ⟨(events_succ hstep).trans (congrArg _ hev), t, (run_succ hstep).trans hrun, hctx, hinput⟩

end Sys2Proof.Machine
end

section
/-! The obligations about the data bytes. -/

namespace Sys2Proof.Proofs

open Machine Safety

/-- Settles O21: every DATA row runs the one dispatch. -/
theorem dataRowsDispatchByFlags : Obligations.DataRowsDispatchByFlags := by
  refine ⟨fun b hb => (isDataRow_decodeByte_iff b).2 hb, fun i b s hi => ?_⟩
  rw [exec_dataRow hi]
  exact ⟨dataDispatch_of_not_started b, dataDispatch_of_awaiting b, dataDispatch_of_lengthKnown b⟩

/-- Settles O22, by the bound `C − 2`. -/
theorem lengthOutcome : Obligations.LengthOutcome := by
  refine ⟨fun s b hb hs hk => ?_, fun _ _ => execLength_of_le, fun _ _ => execLength_of_lt, fun s hf => ?_⟩
  · exact (exec_decodeByte_data hb s).trans (dataDispatch_of_awaiting b hs hk)
  · rw [hf]; rfl

/-- Settles O23. The first check is never the only one that fails, since `declared_length` is at most `C − 2` too
(10_state.md R25). -/
theorem payloadOutcome : Obligations.PayloadOutcome := by
  refine ⟨fun s b hb hs hk => ?_, fun _ => execPayload_of_full, fun s b hm hc hd => ?_, fun s h hc => ?_⟩
  · exact (exec_decodeByte_data hb s).trans (dataDispatch_of_lengthKnown b hs hk)
  · exact ⟨afterPayload b s, execPayload_of_room b hc hd, rfl, rfl, toNat_add_one_of_lt hd,
      memRead_storeIndex_afterPayload hm b, fun _ => memRead_afterPayload_of_ne hm b, rfl, rfl, rfl⟩
  · exact BitVec.le_trans h.cap.1 hc

/-- Settles O24, the run of stray bytes by induction on their list. -/
theorem strayOutcome : Obligations.StrayOutcome :=
  ⟨fun s b hb hs => (exec_decodeByte_data hb s).trans (dataDispatch_of_not_started b hs),
    fun s b => execStray_eq b s, fun _ _ _ => events_run_of_not_started⟩

/-- Settles O25: the DATA rows and BYTE run the one dispatch, which selects LENGTH or PAYLOAD. -/
theorem dataRowsAndByteAccept : Obligations.DataRowsAndByteAccept := by
  intro i b s hb hi hs
  rw [exec_eq_dataDispatch hb hi]
  refine ⟨fun hk hl => ?_, fun hm hk hc hd => ?_⟩
  · exact (dataDispatch_of_awaiting b hs hk).trans (execLength_of_le hl)
  · exact ⟨afterPayload b s, (dataDispatch_of_lengthKnown b hs hk).trans (execPayload_of_room b hc hd), rfl, rfl, rfl,
      memRead_storeIndex_afterPayload hm b, fun _ => memRead_afterPayload_of_ne hm b, rfl, rfl, rfl⟩

end Sys2Proof.Proofs
end

section
/-! A run of edges that all sample one operation, and the lines that select it (42_context_ops.md R83, R84, R85). -/

namespace Sys2Proof

/-- `rst` alone decides for HWRESET (30_encoding.md R60). -/
theorem decodeSymbol_of_rst {x : Symbol} (hr : x.rst = true) : decodeSymbol x = .hwreset := by
  rw [decodeSymbol_eq, if_pos hr]

theorem decodeSymbol_of_ctxReset {x : Symbol} (hr : x.rst = false) (hc : x.ctxReset = true) :
    decodeSymbol x = .reset := by
  rw [decodeSymbol_eq, if_neg (by simp [hr]), if_pos hc]

theorem decodeSymbol_of_isIdle {x : Symbol} (h : Safety.isIdle x = true) : decodeSymbol x = .idle := by
  obtain ⟨⟨hr, hc⟩, hv⟩ : (x.rst = false ∧ x.ctxReset = false) ∧ x.inValid = false := by
    simpa only [Safety.isIdle, Bool.and_eq_true, Bool.not_eq_true'] using h
  rw [decodeSymbol_eq, if_neg (by simp [hr]), if_neg (by simp [hc]), if_neg (by simp [hv])]

end Sys2Proof

namespace Sys2Proof.Machine

/-- An operation that does to a state what it does again to the result, and neither reads nor writes the symbols that
wait, does in any positive number of edges what it does in one. -/
theorem run_of_idempotent {i : Instr} {g : State → State} (hexec : ∀ s, exec i s = .next (g s))
    (hinput : ∀ s l, g (s.setInput l) = (g s).setInput l) (hidem : ∀ s, g (g s) = g s)
    {s : State} {xs rest : List Symbol} (h : s.input = xs ++ rest) (hne : xs ≠ [])
    (hall : ∀ x ∈ xs, decodeSymbol x = i) : Safety.run xs.length s = .next ((g s).setInput rest) := by
  induction xs generalizing s with
  | nil => exact absurd rfl hne
  | cons x xs ih =>
    obtain ⟨hx, hxs⟩ := List.forall_mem_cons.1 hall
    have hstep : step s = .next ((g s).setInput (xs ++ rest)) := by
      rw [step_cons (rest := xs ++ rest) h, hx, hexec, hinput]
    rw [List.length_cons, run_succ hstep]
    cases xs with
    | nil => rfl
    | cons y ys =>
      have hagain : g ((g s).setInput (y :: ys ++ rest)) = (g s).setInput (y :: ys ++ rest) := by rw [hinput, hidem]
      rw [ih rfl (List.cons_ne_nil y ys) hxs, hagain]
      rfl

end Sys2Proof.Machine
end

section
/-! EQUALS and EQUALS_LOGICAL as propositions (42_context_ops.md R86, R87). -/

namespace Sys2Proof.Machine

variable {p : Params} {x y z : Context}

theorem equals_iff :
    equals p x y = true ↔
      x.flags = y.flags ∧ x.declaredLength = y.declaredLength ∧ x.accumulatedLength = y.accumulatedLength ∧
        ∀ i, i < p.capacity → bufRead x.buffer i = bufRead y.buffer i := by
  simp [equals, and_assoc]

theorem equalsLogical_iff :
    equalsLogical x y = true ↔
      x.flags = y.flags ∧ x.declaredLength = y.declaredLength ∧ x.accumulatedLength = y.accumulatedLength ∧
        ∀ i, i < x.accumulatedLength.toNat → bufRead x.buffer i = bufRead y.buffer i := by
  simp [equalsLogical, and_assoc]

theorem equals_refl (p : Params) (x : Context) : equals p x x = true :=
  equals_iff.2 ⟨rfl, rfl, rfl, fun _ _ => rfl⟩

theorem equals_symm (h : equals p x y = true) : equals p y x = true := by
  obtain ⟨hf, hd, ha, hb⟩ := equals_iff.1 h
  exact equals_iff.2 ⟨hf.symm, hd.symm, ha.symm, fun i hi => (hb i hi).symm⟩

theorem equals_trans (hxy : equals p x y = true) (hyz : equals p y z = true) : equals p x z = true := by
  obtain ⟨hf, hd, ha, hb⟩ := equals_iff.1 hxy
  obtain ⟨hf', hd', ha', hb'⟩ := equals_iff.1 hyz
  exact equals_iff.2 ⟨hf.trans hf', hd.trans hd', ha.trans ha', fun i hi => (hb i hi).trans (hb' i hi)⟩

/-- Buffers of slots `0..C−1` that agree at these slots agree at every index, since no other slot is listed. -/
theorem bufRead_eq_of_inRange {m n : Memory} {c : Nat} (hm : Memory.inRange c m) (hn : Memory.inRange c n)
    (h : ∀ i, i < c → bufRead m i = bufRead n i) (i : Nat) : bufRead m i = bufRead n i := by
  rcases lt_or_ge i c with hi | hi
  · exact h i hi
  · rw [bufRead_outOfRange hm hi, bufRead_outOfRange hn hi]

/-- Contexts that EQUALS tells to be equal, with buffers in canonical form, are the same. -/
theorem eq_of_equals (hxw : Memory.wf x.buffer) (hyw : Memory.wf y.buffer) (hxr : Memory.inRange p.capacity x.buffer)
    (hyr : Memory.inRange p.capacity y.buffer) (h : equals p x y = true) : x = y := by
  obtain ⟨hf, hd, ha, hb⟩ := equals_iff.1 h
  have hbuf : x.buffer = y.buffer := Memory.ext hxw hyw (bufRead_eq_of_inRange hxr hyr hb)
  cases x
  cases y
  rw [Context.mk.injEq]
  exact ⟨hf, hd, ha, hbuf⟩

end Sys2Proof.Machine
end

section
/-! The rows of the transition table (42_context_ops.md R89): STOP and a data byte in each of the four protocol states. -/

namespace Sys2Proof.Machine

open Safety

/-! What the protocol states say of the flags (10_state.md R19). -/

theorem inState_idle_iff {f : BitVec 3} : inState .idle f = true ↔ f = noFlags := beq_iff_eq

theorem inState_awaitingLength_iff {f : BitVec 3} :
    inState .awaitingLength f = true ↔ started f = true ∧ lengthKnown f = false := by
  simp [inState]

theorem inState_accumulatingPayload_iff {f : BitVec 3} :
    inState .accumulatingPayload f = true ↔ (started f = true ∧ lengthKnown f = true) ∧ stopped f = false := by
  simp [inState]

/-! STOP and a data byte, state by state. -/

variable {s : State} {b : Byte}

/-- In Idle both raise the same error. -/
theorem exec_stop_data_of_idle (h : inState .idle s.ctx.flags = true) (hb : isDataValue b = true) :
    exec .stop s = .next (s.setEv (.err .missingStart)) ∧
      exec (decodeByte b) s = .next (s.setEv (.err .missingStart)) := by
  have hs : started s.ctx.flags = false := by rw [inState_idle_iff.1 h, started_noFlags]
  exact ⟨execStop_of_not_started hs, exec_decodeByte_of_not_started hb hs⟩

/-- In AwaitingLength the data byte is LENGTH, and the bound decides. -/
theorem exec_stop_data_of_awaitingLength (h : inState .awaitingLength s.ctx.flags = true)
    (hb : isDataValue b = true) :
    exec .stop s = .next (s.setEv (.err .notReady)) ∧
      (b ≤ s.params.lmax → exec (decodeByte b) s = .next (afterLength b s)) ∧
      (s.params.lmax < b → exec (decodeByte b) s = .next (s.setEv (.err .bufferOverflow))) := by
  obtain ⟨hs, hk⟩ := inState_awaitingLength_iff.1 h
  rw [exec_decodeByte_data hb, dataDispatch_of_awaiting b hs hk]
  exact ⟨execStop_of_awaiting hs hk, execLength_of_le, execLength_of_lt⟩

/-- In AccumulatingPayload, with the frame full, STOP completes it and a data byte is one too many. -/
theorem exec_stop_data_of_full (hi : Inv s) (h : inState .accumulatingPayload s.ctx.flags = true)
    (hb : isDataValue b = true) (hd : s.ctx.accumulatedLength = s.ctx.declaredLength) :
    exec .stop s = .next (afterStop s) ∧ exec (decodeByte b) s = .next (s.setEv (.err .bufferOverflow)) := by
  obtain ⟨⟨hs, hk⟩, -⟩ := inState_accumulatingPayload_iff.1 h
  rw [exec_decodeByte_data hb, dataDispatch_of_lengthKnown b hs hk]
  exact ⟨execStop_of_full hs hk hd hi.cap.2, execPayload_of_full b (.inr (BitVec.le_of_eq hd.symm))⟩

/-- In AccumulatingPayload, with payload missing, STOP comes too early and a data byte is stored: the buffer has room where
the frame has, since `declared_length` is at most `C − 2`. -/
theorem exec_stop_data_of_missing (hi : Inv s) (h : inState .accumulatingPayload s.ctx.flags = true)
    (hb : isDataValue b = true) (hd : s.ctx.accumulatedLength ≠ s.ctx.declaredLength) :
    exec .stop s = .next (s.setEv (.err .lengthMismatch)) ∧ exec (decodeByte b) s = .next (afterPayload b s) := by
  obtain ⟨⟨hs, hk⟩, -⟩ := inState_accumulatingPayload_iff.1 h
  have hframe : s.ctx.accumulatedLength < s.ctx.declaredLength := BitVec.lt_of_le_ne (hi.len hk) hd
  have hbuffer : s.ctx.accumulatedLength < s.params.lmax := Std.lt_of_lt_of_le hframe hi.cap.1
  rw [exec_decodeByte_data hb, dataDispatch_of_lengthKnown b hs hk]
  exact ⟨execStop_of_mismatch hs hk hd, execPayload_of_room b hbuffer hframe⟩

/-- In FrameComplete STOP succeeds again (40_control_bytes.md R74), and the frame has no room. -/
theorem exec_stop_data_of_frameComplete (hi : Inv s) (h : inState .frameComplete s.ctx.flags = true)
    (hb : isDataValue b = true) :
    exec .stop s = .next (s.setEv .done) ∧ exec (decodeByte b) s = .next (s.setEv (.err .bufferOverflow)) := by
  have hf := hi.flags_of_stopped h
  obtain ⟨hd, -⟩ := hi.stop h
  rw [exec_decodeByte_data hb, dataDispatch_of_lengthKnown b (by rw [hf]; rfl) (by rw [hf]; rfl)]
  exact ⟨execStop_of_stopped hi h, execPayload_of_full b (.inr (BitVec.le_of_eq hd.symm))⟩

/-! The states that the successes lead to. -/

theorem inState_afterStart (s : State) : inState .awaitingLength (afterStart s).ctx.flags = true :=
  inState_awaitingLength_iff.2 ⟨started_startedOnly, lengthKnown_startedOnly⟩

theorem inState_afterLength (hi : Inv s) (h : inState .awaitingLength s.ctx.flags = true) (b : Byte) :
    inState .accumulatingPayload (afterLength b s).ctx.flags = true := by
  obtain ⟨hs, hk⟩ := inState_awaitingLength_iff.1 h
  rw [afterLength_flags, hi.flags_of_awaiting hs hk]
  rfl

theorem inState_afterStop (s : State) : inState .frameComplete (afterStop s).ctx.flags = true :=
  stopped_setStopped s.ctx.flags

end Sys2Proof.Machine
end

section
/-! The obligations about the control symbols, the table of `process`, the transitions and the comparisons. -/

namespace Sys2Proof.Proofs

open Machine Safety

/-- Settles O14: clearing a cleared context clears it again. -/
theorem hardwareResetGivesDefault : Obligations.HardwareResetGivesDefault :=
  ⟨fun _ => decodeSymbol_of_rst, execHwreset_eq,
    fun _ _ _ h hne hall => run_of_idempotent (i := .hwreset) execHwreset_eq (fun _ _ => rfl) (fun _ => rfl) h hne
      fun x hx => decodeSymbol_of_rst (hall x hx),
    rfl⟩

/-- Settles O15: RESET goes to `afterClear`, whose context is the default one in every field. -/
theorem contextResetGivesDefault : Obligations.ContextResetGivesDefault := by
  refine ⟨fun _ => decodeSymbol_of_ctxReset, fun s => ⟨execReset_eq s, fun hc => ?_⟩, rfl, rfl, rfl, bufRead_nil,
    fun s t h => ?_⟩
  · calc exec .reset s
        = .next ((s.setCtx Context.default).setEv .none) := execReset_eq s
      _ = .next (s.setEv .none) := by rw [← hc]; rfl
  · obtain rfl : afterClear s = t := Host.Outcome.next.inj h
    exact equals_refl _ _

/-- Settles O16: an event that has ended ends again. -/
theorem idleOnlyEndsTheEvent : Obligations.IdleOnlyEndsTheEvent :=
  ⟨fun _ => decodeSymbol_of_isIdle, execIdle_eq,
    fun _ _ _ h hne hall => run_of_idempotent (i := .idle) execIdle_eq (fun _ _ => rfl) (fun _ => rfl) h hne
      fun x hx => decodeSymbol_of_isIdle (hall x hx)⟩

/-- Settles O26: BYTE, and each DATA row, is run as the byte's row, which is the table. -/
theorem byteStepIsTheProcessTable : Obligations.ByteStepIsTheProcessTable := by
  intro s b
  have hrow := exec_decodeByte_eq_process b s
  refine ⟨(execByte_eq b s).trans hrow, hrow, fun hb i hi => ?_⟩
  calc exec i s
      = dataDispatch b s := exec_dataRow hi s
    _ = exec (decodeByte b) s := (exec_decodeByte_data hb s).symm
    _ = .next (afterByte b s) := hrow

/-- Settles O50, by the rows of the table; where an error is raised the state is the one before. -/
theorem transitionTable : Obligations.TransitionTable := by
  intro s hi
  refine ⟨⟨_, execStart_eq s, inState_afterStart s, rfl⟩, fun i hmem => ?_, ⟨_, execIdle_eq s, rfl, rfl⟩,
    fun b hb => ?_⟩
  · have hclear : exec i s = .next (afterClear s) := by
      simp only [List.mem_cons, List.not_mem_nil, or_false] at hmem
      rcases hmem with rfl | rfl | rfl <;> rfl
    exact ⟨_, hclear, rfl, rfl⟩
  · obtain ⟨t, ht, -⟩ := exec_effect .stop s
    obtain ⟨u, hu, -⟩ := exec_effect (decodeByte b) s
    have stop_eq {r : State} (h : exec .stop s = .next r) : t = r := Host.Outcome.next.inj (ht.symm.trans h)
    have data_eq {r : State} (h : exec (decodeByte b) s = .next r) : u = r := Host.Outcome.next.inj (hu.symm.trans h)
    refine ⟨t, u, ht, hu, fun h => ?idle, fun h => ?awaitingLength, fun h => ?accumulatingPayload,
      fun h => ?frameComplete⟩
    case idle =>
      obtain ⟨hstop, hdata⟩ := exec_stop_data_of_idle h hb
      rw [stop_eq hstop, data_eq hdata]
      exact ⟨h, rfl, h, rfl⟩
    case awaitingLength =>
      obtain ⟨hstop, haccept, hreject⟩ := exec_stop_data_of_awaitingLength h hb
      rw [stop_eq hstop]
      refine ⟨h, rfl, fun hl => ?_, fun hl => ?_⟩
      · rw [data_eq (haccept hl)]
        exact ⟨inState_afterLength hi h b, rfl⟩
      · rw [data_eq (hreject hl)]
        exact ⟨h, rfl⟩
    case accumulatingPayload =>
      refine ⟨fun hd => ?_, fun hd => ?_⟩
      · obtain ⟨hstop, hdata⟩ := exec_stop_data_of_full hi h hb hd
        rw [stop_eq hstop, data_eq hdata]
        exact ⟨inState_afterStop s, rfl, h, rfl⟩
      · obtain ⟨hstop, hdata⟩ := exec_stop_data_of_missing hi h hb hd
        rw [stop_eq hstop, data_eq hdata]
        exact ⟨h, rfl, h, rfl, rfl⟩
    case frameComplete =>
      obtain ⟨hstop, hdata⟩ := exec_stop_data_of_frameComplete hi h hb
      rw [stop_eq hstop, data_eq hdata]
      exact ⟨h, rfl, h, rfl⟩

/-- Settles O54. -/
theorem equalsIsStrictEquality : Obligations.EqualsIsStrictEquality := by
  refine fun p => ⟨fun _ _ => equals_iff, equals_refl p, fun x y => ?_, fun _ _ _ => equals_trans,
    fun x y hxw hyw hxr hyr => ⟨eq_of_equals hxw hyw hxr hyr, ?_⟩⟩
  · exact Bool.eq_iff_iff.2 ⟨equals_symm, equals_symm⟩
  · rintro rfl
    exact equals_refl p x

/-- Settles O55: equal buffers are equal below `accumulated_length` too, even where that lies above `C − 1`. -/
theorem logicalEqualityIsWeaker : Obligations.LogicalEqualityIsWeaker := by
  refine ⟨fun _ _ => equalsLogical_iff, fun p x y hx hy h => ?_, by decide, by decide⟩
  obtain ⟨hf, hd, ha, hb⟩ := equals_iff.1 h
  exact equalsLogical_iff.2 ⟨hf, hd, ha, fun i _ => bufRead_eq_of_inRange hx hy hb i⟩

end Sys2Proof.Proofs
end

section
/-! What an instruction leaves behind by its event: an error, `Done`, and the codes on the ports (60_exceptions.md R93, R94,
R100, R106). -/

namespace Sys2Proof.Machine

variable {i : Instr} {s t u : State} {e : Event} {k : ErrKind}

/-- An instruction answers one event. -/
theorem ev_unique (h : exec i s = .next t) (h' : exec i s = .next u) : t.ev = u.ev :=
  congrArg State.ev (Host.Outcome.next.inj (h.symm.trans h'))

/-- Whatever raises, raises in the state before. -/
theorem Effect.eq_setEv_of_err {j : Instr} (h : Effect s j t) (hev : t.ev = .err k) : t = s.setEv (.err k) := by
  cases h with
  | stopRaises | stray | lengthRaises | payloadRaises => rw [← hev, State.setEv_ev]
  | _ => cases hev

theorem Effect.ev_ne_invalidContext {j : Instr} (h : Effect s j t) : t.ev ≠ .err .invalidContext := by
  cases h with
  | stopRaises k hk => simpa using hk
  | _ => simp

/-- Only a successful STOP completes a frame. -/
theorem Move.eq_afterStop_of_done (h : Move s t) (hev : t.ev = .done) : t = afterStop s := by
  cases h with
  | stop => rfl
  | _ => cases hev

theorem ErrKind.code_ne_zero (k : ErrKind) : k.code ≠ 0 := by cases k <;> decide

/-- Of the eight values of `err_code`, three belong to no event that is raised (R93, R94). -/
theorem Event.errCode_ne (h : e ≠ .err .invalidContext) : e.errCode ≠ 1 ∧ e.errCode ≠ 6 ∧ e.errCode ≠ 7 := by
  cases e with
  | none => decide
  | done => decide
  | err k =>
    cases k with
    | invalidContext => exact absurd rfl h
    | _ => decide

theorem Event.doneBit_iff : e.doneBit = true ↔ e = .done := by cases e <;> simp [Event.doneBit]

theorem ports_frameDone_iff : (ports t).frameDone = true ↔ t.ev = .done := Event.doneBit_iff

/-- The ports beside an error. -/
theorem ports_of_err (h : t.ev = .err k) :
    (ports t).errValid = true ∧ (ports t).errCode = k.code ∧ (ports t).frameDone = false := by
  have hcode : t.ev.errCode = k.code := congrArg Event.errCode h
  exact ⟨bne_iff_ne.2 (hcode ▸ k.code_ne_zero), hcode, congrArg Event.doneBit h⟩

end Sys2Proof.Machine
end

section
/-! The event of an accepted byte, and the cause of each (60_exceptions.md R95 to R98, R106). -/

namespace Sys2Proof.Machine

/-- The events that a byte can give, each with what decides for it. -/
inductive Reports (s : State) : Byte → Event → Prop where
  /-- START and ESC. -/
  | reset {b : Byte} (hb : b = 0x02 ∨ b = 0x10) : Reports s b .none
  | missingStart {b : Byte} (hb : isDataValue b = true ∨ b = 0x03) (hs : started s.ctx.flags = false) :
      Reports s b (.err .missingStart)
  | stopNotReady (hs : started s.ctx.flags = true) (hk : lengthKnown s.ctx.flags = false) :
      Reports s 0x03 (.err .notReady)
  | stopMismatch (hs : started s.ctx.flags = true) (hk : lengthKnown s.ctx.flags = true)
      (hd : s.ctx.accumulatedLength ≠ s.ctx.declaredLength) : Reports s 0x03 (.err .lengthMismatch)
  | stopOverflow (hs : started s.ctx.flags = true) (hk : lengthKnown s.ctx.flags = true)
      (hd : s.ctx.accumulatedLength = s.ctx.declaredLength) (hc : s.params.lmax < s.ctx.accumulatedLength) :
      Reports s 0x03 (.err .bufferOverflow)
  | stopDone (hs : started s.ctx.flags = true) (hk : lengthKnown s.ctx.flags = true)
      (hd : s.ctx.accumulatedLength = s.ctx.declaredLength) (hc : s.ctx.accumulatedLength ≤ s.params.lmax) :
      Reports s 0x03 .done
  | lengthOverflow {b : Byte} (hb : isDataValue b = true) (hs : started s.ctx.flags = true)
      (hk : lengthKnown s.ctx.flags = false) (hl : s.params.lmax < b) : Reports s b (.err .bufferOverflow)
  | payloadOverflow {b : Byte} (hb : isDataValue b = true) (hs : started s.ctx.flags = true)
      (hk : lengthKnown s.ctx.flags = true)
      (hr : s.params.lmax ≤ s.ctx.accumulatedLength ∨ s.ctx.declaredLength ≤ s.ctx.accumulatedLength) :
      Reports s b (.err .bufferOverflow)
  /-- LENGTH and PAYLOAD, accepted. -/
  | accepted {b : Byte} (hb : isDataValue b = true) (hs : started s.ctx.flags = true) : Reports s b .none

variable {s t : State} {b : Byte}

theorem reports_stop (h : execStop s = .next t) : Reports s 0x03 t.ev := by
  cases (execStop_eq s).symm.trans h
  simp only [frameFull_false, aboveLmax_true]
  split_ifs with hs hk hd hc
  · exact .missingStart (.inr rfl) hs
  · exact .stopNotReady (by simpa using hs) hk
  · exact .stopMismatch (by simpa using hs) (by simpa using hk) hd
  · exact .stopOverflow (by simpa using hs) (by simpa using hk) (by simpa using hd) hc
  · exact .stopDone (by simpa using hs) (by simpa using hk) (by simpa using hd) (BitVec.not_lt.1 hc)

theorem reports_data (hb : isDataValue b = true) (h : dataDispatch b s = .next t) : Reports s b t.ev := by
  cases (dataDispatch_eq b s).symm.trans h
  simp only [aboveLmax_true, roomInBuffer_iff, roomInFrame_iff]
  split_ifs with hs hk hl hr
  · exact .missingStart (.inl hb) hs
  · exact .lengthOverflow hb (by simpa using hs) hk hl
  · exact .accepted hb (by simpa using hs)
  · exact .accepted hb (by simpa using hs)
  · rw [not_and_or, BitVec.not_lt, BitVec.not_lt] at hr
    exact .payloadOverflow hb (by simpa using hs) (by simpa using hk) hr

/-- What every accepted byte reports. -/
theorem reports_of_exec (h : exec (decodeByte b) s = .next t) : Reports s b t.ev := by
  rcases byte_class b with rfl | rfl | rfl | hb
  · cases h; exact .reset (.inl rfl)
  · cases h; exact .reset (.inr rfl)
  · exact reports_stop h
  · exact reports_data hb ((exec_decodeByte_data hb s).symm.trans h)

theorem reports_of_ev {e : Event} (h : exec (decodeByte b) s = .next t) (hev : t.ev = e) : Reports s b e :=
  hev ▸ reports_of_exec h

theorem exec_data_of_awaiting (hb : isDataValue b = true) (hs : started s.ctx.flags = true)
    (hk : lengthKnown s.ctx.flags = false) : exec (decodeByte b) s = execLength b s :=
  (exec_decodeByte_data hb s).trans (dataDispatch_of_awaiting b hs hk)

theorem exec_data_of_lengthKnown (hb : isDataValue b = true) (hs : started s.ctx.flags = true)
    (hk : lengthKnown s.ctx.flags = true) : exec (decodeByte b) s = execPayload b s :=
  (exec_decodeByte_data hb s).trans (dataDispatch_of_lengthKnown b hs hk)

/-! The causes: what an event tells of the byte and the state is what the byte's case says of the event. -/

section
variable (h : exec (decodeByte b) s = .next t)
include h

theorem ev_eq_missingStart_iff :
    t.ev = .err .missingStart ↔ started s.ctx.flags = false ∧ (isDataValue b = true ∨ b = 0x03) := by
  refine ⟨fun hev => ?_, ?_⟩
  · cases reports_of_ev h hev with
    | missingStart hb hs => exact ⟨hs, hb⟩
  · rintro ⟨hs, hb | rfl⟩
    · exact ev_unique h (exec_decodeByte_of_not_started hb hs)
    · exact ev_unique h (execStop_of_not_started hs)

theorem ev_eq_notReady_iff :
    t.ev = .err .notReady ↔ b = 0x03 ∧ started s.ctx.flags = true ∧ lengthKnown s.ctx.flags = false := by
  refine ⟨fun hev => ?_, ?_⟩
  · cases reports_of_ev h hev with
    | stopNotReady hs hk => exact ⟨rfl, hs, hk⟩
  · rintro ⟨rfl, hs, hk⟩
    exact ev_unique h (execStop_of_awaiting hs hk)

theorem ev_eq_lengthMismatch_iff :
    t.ev = .err .lengthMismatch ↔ b = 0x03 ∧ started s.ctx.flags = true ∧ lengthKnown s.ctx.flags = true ∧
      s.ctx.accumulatedLength ≠ s.ctx.declaredLength := by
  refine ⟨fun hev => ?_, ?_⟩
  · cases reports_of_ev h hev with
    | stopMismatch hs hk hd => exact ⟨rfl, hs, hk, hd⟩
  · rintro ⟨rfl, hs, hk, hd⟩
    exact ev_unique h (execStop_of_mismatch hs hk hd)

theorem ev_eq_bufferOverflow_iff :
    t.ev = .err .bufferOverflow ↔
      started s.ctx.flags = true ∧
      ((isDataValue b = true ∧ lengthKnown s.ctx.flags = false ∧ s.params.lmax < b) ∨
       (isDataValue b = true ∧ lengthKnown s.ctx.flags = true ∧
         (s.params.lmax ≤ s.ctx.accumulatedLength ∨ s.ctx.declaredLength ≤ s.ctx.accumulatedLength)) ∨
       (b = 0x03 ∧ lengthKnown s.ctx.flags = true ∧ s.ctx.accumulatedLength = s.ctx.declaredLength ∧
         s.params.lmax < s.ctx.accumulatedLength)) := by
  refine ⟨fun hev => ?_, ?_⟩
  · cases reports_of_ev h hev with
    | lengthOverflow hb hs hk hl => exact ⟨hs, .inl ⟨hb, hk, hl⟩⟩
    | payloadOverflow hb hs hk hr => exact ⟨hs, .inr (.inl ⟨hb, hk, hr⟩)⟩
    | stopOverflow hs hk hd hc => exact ⟨hs, .inr (.inr ⟨rfl, hk, hd, hc⟩)⟩
  · rintro ⟨hs, ⟨hb, hk, hl⟩ | ⟨hb, hk, hr⟩ | ⟨rfl, hk, hd, hc⟩⟩
    · exact ev_unique h ((exec_data_of_awaiting hb hs hk).trans (execLength_of_lt hl))
    · exact ev_unique h ((exec_data_of_lengthKnown hb hs hk).trans (execPayload_of_full b hr))
    · exact ev_unique h (execStop_of_overflow hs hk hd hc)

theorem ev_eq_done_iff :
    t.ev = .done ↔ b = 0x03 ∧ started s.ctx.flags = true ∧ lengthKnown s.ctx.flags = true ∧
      s.ctx.accumulatedLength = s.ctx.declaredLength ∧ s.ctx.accumulatedLength ≤ s.params.lmax := by
  refine ⟨fun hev => ?_, ?_⟩
  · cases reports_of_ev h hev with
    | stopDone hs hk hd hc => exact ⟨rfl, hs, hk, hd, hc⟩
  · rintro ⟨rfl, hs, hk, hd, hc⟩
    exact ev_unique h (execStop_of_full hs hk hd hc)

end

/-! A step completes a frame by an accepted byte. -/

theorem exec_of_step_of_isByte (h : step s = .next t) (hx : (fetch s).isByte = true) :
    exec (decodeByte (fetch s).inByte) (advance s) = .next t := by
  rwa [step, decodeSymbol, if_pos hx] at h

theorem isByte_of_done (h : step s = .next t) (hev : t.ev = .done) : (fetch s).isByte = true := by
  by_contra hx
  rw [ev_of_step_of_not_isByte h (by simpa using hx)] at hev
  cases hev

end Sys2Proof.Machine
end

section
/-! The events of STOP and of a data byte in each protocol state (60_exceptions.md R101). -/

namespace Sys2Proof.Machine

open Safety

variable {s t : State} {b : Byte}

theorem ev_stop_of_accumulatingPayload (h : exec .stop s = .next t) (hi : Inv s)
    (hp : inState .accumulatingPayload s.ctx.flags = true) :
    (t.ev = .err .lengthMismatch ↔ s.ctx.accumulatedLength ≠ s.ctx.declaredLength) ∧
      (t.ev = .done ↔ s.ctx.accumulatedLength = s.ctx.declaredLength) := by
  obtain ⟨⟨hs, hk⟩, -⟩ := inState_accumulatingPayload_iff.1 hp
  by_cases hd : s.ctx.accumulatedLength = s.ctx.declaredLength
  · have hev : t.ev = .done := ev_unique h (execStop_of_full hs hk hd hi.cap.2)
    simp [hev, hd]
  · have hev : t.ev = .err .lengthMismatch := ev_unique h (execStop_of_mismatch hs hk hd)
    simp [hev, hd]

section
variable (hb : isDataValue b = true) (h : exec (decodeByte b) s = .next t)
include hb h

theorem ev_data_of_awaitingLength (hp : inState .awaitingLength s.ctx.flags = true) :
    (t.ev = .err .bufferOverflow ↔ s.params.lmax < b) ∧ (t.ev = .none ↔ b ≤ s.params.lmax) := by
  obtain ⟨-, haccept, hreject⟩ := exec_stop_data_of_awaitingLength hp hb
  by_cases hl : s.params.lmax < b
  · have hev : t.ev = .err .bufferOverflow := ev_unique h (hreject hl)
    simp [hev, hl, BitVec.not_le.2 hl]
  · have hev : t.ev = .none := ev_unique h (haccept (BitVec.not_lt.1 hl))
    simp [hev, hl, BitVec.not_lt.1 hl]

theorem ev_data_of_accumulatingPayload (hi : Inv s) (hp : inState .accumulatingPayload s.ctx.flags = true) :
    (t.ev = .err .bufferOverflow ↔ s.ctx.accumulatedLength = s.ctx.declaredLength) ∧
      (t.ev = .none ↔ s.ctx.accumulatedLength < s.ctx.declaredLength) := by
  obtain ⟨⟨-, hk⟩, -⟩ := inState_accumulatingPayload_iff.1 hp
  by_cases hd : s.ctx.accumulatedLength = s.ctx.declaredLength
  · have hev : t.ev = .err .bufferOverflow := ev_unique h (exec_stop_data_of_full hi hp hb hd).2
    simp [hev, hd]
  · have hev : t.ev = .none := ev_unique h (exec_stop_data_of_missing hi hp hb hd).2
    simp [hev, hd, BitVec.lt_of_le_ne (hi.len hk) hd]

end

end Sys2Proof.Machine
end

section
/-! The obligations about errors and about `Done`. -/

namespace Sys2Proof.Proofs

open Machine Safety

/-- Settles O11: every meaning answers, and none reads EV. -/
theorem blockNeverStops : Obligations.BlockNeverStops := by
  refine ⟨fun i s => ?_, fun s => ?_, fun s e => exec_setEv _ (advance s) e⟩
  · obtain ⟨t, h, -⟩ := exec_effect i s
    exact ⟨t, h⟩
  · obtain ⟨t, h, -⟩ := step_move s
    exact ⟨t, h⟩

/-- Settles O27: the state with the error is the state before, but for EV. -/
theorem errorLeavesTheContext : Obligations.ErrorLeavesTheContext := by
  intro i s t k h hev
  have hports := ports_of_err hev
  obtain rfl := (effect_of_exec h).eq_setEv_of_err hev
  exact ⟨rfl, rfl, rfl, hports⟩

/-- Settles O28, state by state. -/
theorem errorsByProtocolState : Obligations.ErrorsByProtocolState := by
  refine fun s t hi => ⟨fun h => ?_, fun h => ⟨fun hp => ?_, fun hp => ?_, ev_stop_of_accumulatingPayload h hi,
      fun hp => ev_unique h (execStop_of_stopped hi hp)⟩,
    fun b hb h => ⟨fun hp => ev_unique h (exec_stop_data_of_idle hp hb).2, ev_data_of_awaitingLength hb h,
      ev_data_of_accumulatingPayload hb h hi, fun hp => ev_unique h (exec_stop_data_of_frameComplete hi hp hb).2⟩⟩
  · rcases h with h | h | h | h | h <;> cases h <;> rfl
  · exact ev_unique h (execStop_of_not_started (by rw [inState_idle_iff.1 hp, started_noFlags]))
  · obtain ⟨hs, hk⟩ := inState_awaitingLength_iff.1 hp
    exact ev_unique h (execStop_of_awaiting hs hk)

/-- Settles O29. -/
theorem missingStartCause : Obligations.MissingStartCause := ⟨rfl, fun _ _ _ => ev_eq_missingStart_iff⟩

/-- Settles O30. Where the lengths differ, INV-LEN (10_state.md R24) says which is the smaller. -/
theorem lengthMismatchCause : Obligations.LengthMismatchCause := by
  refine ⟨rfl, fun s t b h => ⟨ev_eq_lengthMismatch_iff h, fun hi hev => ?_⟩⟩
  obtain ⟨-, -, hk, hd⟩ := (ev_eq_lengthMismatch_iff h).1 hev
  exact BitVec.lt_of_le_ne (hi.len hk) hd

/-- Settles O31. -/
theorem bufferOverflowCause : Obligations.BufferOverflowCause := ⟨rfl, fun _ _ _ => ev_eq_bufferOverflow_iff⟩

/-- Settles O32. -/
theorem notReadyCause : Obligations.NotReadyCause := ⟨rfl, fun _ _ _ => ev_eq_notReady_iff⟩

/-- Settles O33: no meaning raises the kind of code 1, and the codes 6 and 7 have no kind. -/
theorem invalidContextIsNeverRaised : Obligations.InvalidContextIsNeverRaised := by
  refine ⟨rfl, fun i s t h => ?_⟩
  have hev := (effect_of_exec h).ev_ne_invalidContext
  exact ⟨hev, Event.errCode_ne hev⟩

/-- Settles O35: `Done` comes from an accepted STOP byte, and an edge that accepts none ends it. -/
theorem doneCause : Obligations.DoneCause := by
  intro s t h
  rw [ports_frameDone_iff]
  refine ⟨⟨fun hev => ?_, ?_⟩, fun hev => ?_, fun u hu hx => ?_⟩
  · have hx := isByte_of_done h hev
    exact ⟨hx, (ev_eq_done_iff (exec_of_step_of_isByte h hx)).1 hev⟩
  · rintro ⟨hx, hstop⟩
    exact (ev_eq_done_iff (exec_of_step_of_isByte h hx)).2 hstop
  · obtain rfl := (move_of_step h).eq_afterStop_of_done hev
    exact ⟨rfl, rfl, rfl, rfl⟩
  · have hev : u.ev = .none := ev_of_step_of_not_isByte hu hx
    exact congrArg Event.doneBit hev

/-- Settles O36: the state after is `afterStop`, which meets the invariants again, and TERM is stored above the payload. -/
theorem handOffShowsTheFrame : Obligations.HandOffShowsTheFrame := by
  intro s t hi h hdone
  have hi' : Inv t := stepKeepsInv s t hi h
  obtain rfl := (move_of_step h).eq_afterStop_of_done (ports_frameDone_iff.1 hdone)
  have hst : stopped (afterStop (advance s)).ctx.flags = true := stopped_setStopped _
  obtain ⟨hd, hterm⟩ := hi'.stop hst
  refine ⟨hi'.flags_of_stopped hst, hd, hterm, (hi'.tail.2 hst).2, fun i hlt => ?_⟩
  have hne : i ≠ storeIndex (advance s) := hlt.ne
  rw [memRead_afterStop (s := advance s) hi.buffer.1, if_neg hne, memRead_advance]

end Sys2Proof.Proofs
end

section
/-! A frame whose bytes come with idle edges between them (60_exceptions.md R108). -/

namespace Sys2Proof.Machine

open Safety

/-! Bytes that `process` takes without an event, and edges that give none. -/

/-- `process` takes the context through the bytes, each without an event. -/
inductive Accepted (p : Params) : Context → List Byte → Context → Prop where
  | nil (c : Context) : Accepted p c [] c
  | cons {c d e : Context} {b : Byte} {bytes : List Byte} (hb : process p c b = (d, .none))
      (h : Accepted p d bytes e) : Accepted p c (b :: bytes) e

/-- The edges go from `s` to `t`, each without an event. -/
def RunsQuietly (k : Nat) (s t : State) : Prop := run k s = .next t ∧ events k s = List.replicate k .none

theorem RunsQuietly.zero (s : State) : RunsQuietly 0 s s := ⟨rfl, rfl⟩

theorem RunsQuietly.succ {k : Nat} {s t u : State} (hstep : step s = .next t) (hev : t.ev = .none)
    (h : RunsQuietly k t u) : RunsQuietly (k + 1) s u := by
  obtain ⟨hrun, hevents⟩ := h
  exact ⟨(run_succ hstep).trans hrun, by rw [events_succ hstep, hev, hevents, List.replicate_succ]⟩

/-- A run goes on by one step at its end. -/
theorem run_snoc {k : Nat} {s t u : State} (hrun : run k s = .next t) (hstep : step t = .next u) :
    run (k + 1) s = .next u ∧ events (k + 1) s = events k s ++ [u.ev] := by
  induction k generalizing s with
  | zero =>
    obtain rfl : s = t := Host.Outcome.next.inj hrun
    exact ⟨run_succ hstep, events_succ hstep⟩
  | succ k ih =>
    obtain ⟨r, hr, -⟩ := step_move s
    obtain ⟨hrun', hevents⟩ := ih ((run_succ hr).symm.trans hrun)
    exact ⟨(run_succ hr).trans hrun', by rw [events_succ hr, events_succ hr, hevents, List.cons_append]⟩

theorem step_of_isIdle {s : State} {x : Symbol} {rest : List Symbol} (h : s.input = x :: rest) (hx : isIdle x = true) :
    step s = .next ((s.setInput rest).setEv .none) := by
  rw [step_cons h, decodeSymbol_of_isIdle hx]
  rfl

theorem step_ofByte {s : State} {b : Byte} {rest : List Symbol} (h : s.input = Symbol.ofByte b :: rest) :
    step s = .next (afterByte b (s.setInput rest)) := by
  rw [step_cons h, decodeSymbol_ofByte, exec_decodeByte_eq_process]

/-- Idle edges between accepted bytes change nothing. -/
theorem runsQuietly_of_accepted {xs rest : List Symbol} {bytes : List Byte} {s : State} {c : Context}
    (hxs : (xs.filter fun x => !isIdle x) = bytes.map Symbol.ofByte) (h : s.input = xs ++ rest)
    (hacc : Accepted s.params s.ctx bytes c) :
    ∃ t, RunsQuietly xs.length s t ∧ t.ctx = c ∧ t.params = s.params ∧ t.input = rest := by
  induction xs generalizing s bytes with
  | nil =>
    obtain rfl : bytes = [] := List.map_eq_nil_iff.1 hxs.symm
    cases hacc
    exact ⟨s, .zero s, rfl, rfl, h⟩
  | cons x xs ih =>
    by_cases hx : isIdle x = true
    · rw [List.filter_cons_of_neg (by simp [hx])] at hxs
      obtain ⟨t, hquiet, hctx, hparams, hinput⟩ :=
        ih (s := (s.setInput (xs ++ rest)).setEv .none) hxs rfl hacc
      exact ⟨t, hquiet.succ (step_of_isIdle h hx) rfl, hctx, hparams, hinput⟩
    · rw [List.filter_cons_of_pos (by simp [hx])] at hxs
      cases hacc with
      | nil => cases hxs
      | @cons _ d _ b bytes hb hacc =>
        obtain ⟨rfl, hbytes⟩ := List.cons.inj hxs
        have hstep := step_ofByte (rest := xs ++ rest) h
        have hafter : afterByte b (s.setInput (xs ++ rest)) = ((s.setInput (xs ++ rest)).setCtx d).setEv .none := by
          simp only [afterByte, State.setInput_params, State.setInput_ctx, hb]
        rw [hafter] at hstep
        obtain ⟨t, hquiet, hctx, hparams, hinput⟩ :=
          ih (s := ((s.setInput (xs ++ rest)).setCtx d).setEv .none) hbytes rfl hacc
        exact ⟨t, hquiet.succ hstep rfl, hctx, hparams, hinput⟩

/-! The buffer that the payload fills. -/

/-- The buffer with the bytes written from slot `i` on. -/
def storeBytes : Memory → Nat → List Byte → Memory
  | m, _, [] => m
  | m, i, b :: bytes => storeBytes (bufWrite m i b) (i + 1) bytes

theorem storeBytes_wf {m : Memory} (hm : Memory.wf m) (i : Nat) (bytes : List Byte) :
    Memory.wf (storeBytes m i bytes) := by
  induction bytes generalizing m i with
  | nil => exact hm
  | cons b bytes ih => exact ih (bufWrite_wf hm i b) (i + 1)

theorem bufRead_storeBytes_of_lt {m : Memory} (hm : Memory.wf m) {i j : Nat} (bytes : List Byte) (hj : j < i) :
    bufRead (storeBytes m i bytes) j = bufRead m j := by
  induction bytes generalizing m i with
  | nil => rfl
  | cons b bytes ih =>
    rw [storeBytes, ih (bufWrite_wf hm i b) (by omega), bufRead_bufWrite hm, if_neg hj.ne]

/-- The `n`th slot from `i` on holds the `n`th byte, and what it held before where there is none. -/
theorem bufRead_storeBytes_add {m : Memory} (hm : Memory.wf m) (i n : Nat) (bytes : List Byte) :
    bufRead (storeBytes m i bytes) (i + n) = bytes[n]?.getD (bufRead m (i + n)) := by
  induction bytes generalizing m i n with
  | nil => rfl
  | cons b bytes ih =>
    have hm' := bufWrite_wf hm i b
    rw [storeBytes]
    cases n with
    | zero =>
      rw [bufRead_storeBytes_of_lt hm' bytes (by omega), bufRead_bufWrite hm, if_pos (by omega)]
      rfl
    | succ n =>
      rw [show i + (n + 1) = i + 1 + n by omega, ih hm', bufRead_bufWrite hm, if_neg (by omega),
        List.getElem?_cons_succ]

/-- The buffer of a frame holds the payload from slot 0 on, and 0x00 above it. -/
theorem bufRead_storeBytes_nil (payload : List Byte) (n : Nat) :
    bufRead (storeBytes [] 0 payload) n = payload[n]?.getD 0x00 := by
  simpa using bufRead_storeBytes_add (m := []) (by simp [Memory.wf]) 0 n payload

/-! The bytes of a frame. -/

/-- The context while the payload of a frame of length `L` is accumulated. -/
def framing (L a : Byte) (m : Memory) : Context := ⟨setLengthKnown startedOnly, L, a, m⟩

@[simp] theorem framing_flags (L a : Byte) (m : Memory) :
    (framing L a m).flags = setLengthKnown startedOnly := rfl

/-- Data bytes that fill the frame are accepted, each in the next slot (41_data_bytes.md R79). -/
theorem accepted_payload {p : Params} {L a : Byte} {payload : List Byte} (m : Memory) (hL : L ≤ p.lmax)
    (hn : a.toNat + payload.length = L.toNat) (hall : ∀ b ∈ payload, isDataValue b = true) :
    Accepted p (framing L a m) payload (framing L L (storeBytes m a.toNat payload)) := by
  induction payload generalizing a m with
  | nil =>
    obtain rfl : a = L := BitVec.eq_of_toNat_eq hn
    exact .nil _
  | cons b payload ih =>
    rw [List.length_cons] at hn
    obtain ⟨hb, hpayload⟩ := List.forall_mem_cons.1 hall
    have hframe : a < L := by rw [BitVec.lt_def]; omega
    have hbuffer : a < p.lmax := Std.lt_of_lt_of_le hframe hL
    have hnext : (a + 1).toNat = a.toNat + 1 := toNat_add_one_of_lt hframe
    have hrest := ih (a := a + 1) (bufWrite m a.toNat b) (by omega) hpayload
    rw [hnext] at hrest
    refine .cons ?_ hrest
    rw [process_data _ _ hb, if_neg (by simp), if_neg (by simp)]
    exact if_pos ⟨hbuffer, hframe⟩

/-- The bytes of a representable frame before its STOP are accepted, whatever the context (30_encoding.md R62). -/
theorem accepted_frame {p : Params} {L : Byte} {payload : List Byte} (c : Context) (hn : payload.length = L.toNat)
    (hr : Representable p L payload) :
    Accepted p c (0x02 :: L :: payload) (framing L L (storeBytes [] 0 payload)) := by
  obtain ⟨hl, hL, hall⟩ := (representable_iff p L payload).1 hr
  have hlength : process p ⟨startedOnly, 0, 0, []⟩ L = (framing L 0 [], .none) := by
    rw [process_data _ _ hL, if_neg (by decide), if_pos (by decide), if_neg (BitVec.not_lt.2 hl)]
    rfl
  exact .cons rfl (.cons hlength (accepted_payload [] hl (by simpa using hn) hall))

/-! STOP at the end of a frame. -/

section
variable {s : State} {L : Byte}

theorem step_stop_of_framing {m : Memory} {rest : List Symbol} (h : s.input = Symbol.ofByte 0x03 :: rest)
    (hctx : s.ctx = framing L L m) (hl : L ≤ s.params.lmax) : step s = .next (afterStop (s.setInput rest)) := by
  refine step_stop_of_full h (by simp [hctx]) (by simp [hctx]) ?_ ?_ <;> rw [hctx]
  · rfl
  · exact hl

theorem afterStop_of_framing {m : Memory} (hctx : s.ctx = framing L L m) :
    (afterStop s).ctx.flags = 0b111 ∧ (afterStop s).ctx.declaredLength = L ∧
      (afterStop s).ctx.accumulatedLength = L := by
  rw [afterStop_flags, afterStop_declaredLength, afterStop_accumulatedLength, hctx, framing_flags]
  exact ⟨rfl, rfl, rfl⟩

/-- The buffer of a completed frame: the payload, TERM, and 0x00 above it (60_exceptions.md R107). -/
theorem memRead_afterStop_of_framing {payload : List Byte} (hctx : s.ctx = framing L L (storeBytes [] 0 payload))
    (i : Nat) : memRead i (afterStop s) = if i = L.toNat then s.params.term else payload[i]?.getD 0x00 := by
  have hbuffer : s.ctx.buffer = storeBytes [] 0 payload := by rw [hctx]; rfl
  have hstore : storeIndex s = L.toNat := by rw [storeIndex, hctx]; rfl
  have hwf : Memory.wf s.ctx.buffer := hbuffer ▸ storeBytes_wf (by simp [Memory.wf]) 0 payload
  rw [memRead_afterStop hwf, hstore, memRead, hbuffer, bufRead_storeBytes_nil]

end

end Sys2Proof.Machine
end

section
/-! The obligation about a frame that is handed over. -/

namespace Sys2Proof.Proofs

open Machine Safety

/-- Settles O37: the bytes before STOP are accepted without an event, and STOP finds the frame full. -/
theorem frameIsHandedOverExactlyOnce : Obligations.FrameIsHandedOverExactlyOnce := by
  intro s L payload xs rest hn hr hxs h
  obtain ⟨t, ⟨hrun, hquiet⟩, hctx, hparams, hinput⟩ :=
    runsQuietly_of_accepted hxs h (accepted_frame s.ctx hn hr)
  have hstep : step t = .next (afterStop (t.setInput rest)) :=
    step_stop_of_framing hinput hctx (by rw [hparams]; exact hr.1)
  obtain ⟨hrun', hevents⟩ := run_snoc hrun hstep
  obtain ⟨hflags, hdeclared, haccumulated⟩ := afterStop_of_framing (s := t.setInput rest) hctx
  have hread := memRead_afterStop_of_framing (s := t.setInput rest) hctx
  rw [State.setInput_params, hparams] at hread
  refine ⟨by rw [hevents, hquiet, afterStop_ev], afterStop (t.setInput rest), hrun', hflags, hdeclared, haccumulated,
    fun i hi => ?payload, ?term, fun i hi => ?above, hparams, rfl⟩
  case payload => rw [hread, if_neg (by omega), List.getElem?_eq_getElem hi, Option.getD_some]
  case term => rw [hread, if_pos rfl]
  case above => rw [hread, if_neg hi.ne', List.getElem?_eq_none (by omega), Option.getD_none]

end Sys2Proof.Proofs
end

section
/-! Idle symbols in a run, and runs that begin with START (70_reset_and_hazards.md R129, R120). -/

namespace Sys2Proof.Machine

open Safety

/-! The fold over the symbols. -/

/-- Nothing presented changes nothing, by the table as by the step. -/
theorem contextAfter_of_isIdle {x : Symbol} (p : Params) (c : Context) (hx : isIdle x = true) :
    contextAfter p c x = c := by
  obtain ⟨⟨hr, hc⟩, hv⟩ : (x.rst = false ∧ x.ctxReset = false) ∧ x.inValid = false := by
    simpa only [isIdle, Bool.and_eq_true, Bool.not_eq_true'] using hx
  rw [contextAfter, hr, hc, hv]
  rfl

/-- The idle symbols may be dropped from the fold. -/
theorem foldl_contextAfter_filter (p : Params) (c : Context) (xs : List Symbol) :
    (xs.filter fun x => !isIdle x).foldl (contextAfter p) c = xs.foldl (contextAfter p) c := by
  induction xs generalizing c with
  | nil => rfl
  | cons x xs ih =>
    by_cases hx : isIdle x = true
    · rw [List.filter_cons_of_neg (by simp [hx]), ih, List.foldl_cons, contextAfter_of_isIdle p c hx]
    · rw [List.filter_cons_of_pos (by simp [hx]), List.foldl_cons, List.foldl_cons, ih]

/-! Runs from two states. -/

variable {s r : State}

/-- A run of one step or more depends on its first state only through the first step. -/
theorem run_events_congr (h : step s = step r) (k : Nat) :
    run (k + 1) s = run (k + 1) r ∧ events (k + 1) s = events (k + 1) r := by
  obtain ⟨t, hs, -⟩ := step_move s
  have hr : step r = .next t := h.symm.trans hs
  exact ⟨(run_succ hs).trans (run_succ hr).symm, (events_succ hs).trans (events_succ hr).symm⟩

/-- START leaves nothing of the context and the event before it (40_control_bytes.md R71). -/
theorem afterStart_congr (hp : s.params = r.params) (hi : s.input = r.input) : afterStart s = afterStart r := by
  obtain ⟨c, e, p, l⟩ := s
  obtain ⟨d, f, q, m⟩ := r
  obtain rfl : p = q := hp
  obtain rfl : l = m := hi
  rfl

end Sys2Proof.Machine
end

section
/-! The obligations of 70_reset_and_hazards.md. -/

namespace Sys2Proof.Proofs

open Machine Safety

/-- Settles O10: a run folds `contextAfter` over all its symbols, and the idle ones do nothing to that fold. -/
theorem clockMayBeDropped : Obligations.ClockMayBeDropped := by
  intro s xs rest h
  obtain ⟨t, hrun, hctx, hparams, hinput⟩ := run_contextAfter h
  exact ⟨t, hrun, hinput, hparams, hctx.trans (foldl_contextAfter_filter s.params s.ctx xs).symm⟩

/-- Settles O58: 2, 3 and 16 are dispatched by value, as START, STOP and ESC (90_conflicts.md C1). After START the next data
byte is the length again; after ESC every data byte is stray. -/
theorem unrepresentableLengths : Obligations.UnrepresentableLengths := by
  intro s hf
  have hs : started s.ctx.flags = true := by rw [hf]; rfl
  have hk : lengthKnown s.ctx.flags = false := by rw [hf]; rfl
  refine ⟨⟨afterStart s, execStart_eq s, inState_afterStart s, rfl, fun b hb => ?restart⟩, execStop_of_awaiting hs hk,
    ⟨afterClear s, execEsc_eq s, inState_idle_iff.2 rfl, rfl, fun bytes rest hall => ?aborted⟩⟩
  case restart => exact exec_data_of_awaiting hb started_startedOnly lengthKnown_startedOnly
  case aborted =>
    exact (events_run_of_not_started (s := { afterClear s with input := bytes.map Symbol.ofByte ++ rest })
      started_noFlags hall rfl).1

/-- Settles O12: START makes the same first step from both states. -/
theorem startSynchronises : Obligations.StartSynchronises := by
  intro s rest k h
  have hreset : step { State.resetWith s.params with input := s.input } = _ := step_start h
  exact run_events_congr (((step_start h).trans (congrArg _ (afterStart_congr rfl rfl))).trans hreset.symm) k

end Sys2Proof.Proofs
end
